-- ==== Sys2Proof/Word.lean ====
section
/-! DEFINITION. The word types of the machine (spec/00_scope.md R6, R9). Every value is unsigned (R9). -/

namespace Sys2Proof

/-- An 8-bit value: a general register, a timer, a memory byte, an immediate kk (R6, R9). -/
abbrev Byte := BitVec 8

/-- A 16-bit value: PC, I, a stack entry, an instruction word (R6). -/
abbrev Word := BitVec 16

end Sys2Proof
end

