-- ==== Sys2Proof/Syntax.lean ====
section
/-! DEFINITION. The instructions: one constructor per row of spec/opcode_table.json, in the table's order, with the
fields of spec/30_encoding.md R81 as operands. The operand types hold exactly the values a field can hold. -/

namespace Sys2Proof

/-- A register index, the field x or y (R81, R83). All sixteen are legal everywhere (R20, R86). -/
abbrev Reg := Fin 16

/-- The flag register VF is register 0xF (R10, R21). -/
abbrev vf : Reg := 15

/-- The field n (R81). -/
abbrev Nibble := BitVec 4

/-- The field nnn (R81). -/
abbrev Addr12 := BitVec 12

/-- The 34 instructions (R84). Each docstring gives the pattern and the rule of the meaning. -/
inductive Instr where
  /-- 00E0, R262. -/
  | cls
  /-- 00EE, R181. -/
  | ret
  /-- 1nnn, R182. -/
  | jp (nnn : Addr12)
  /-- 2nnn, R183. -/
  | call (nnn : Addr12)
  /-- 3xkk, R184. -/
  | seImm (x : Reg) (kk : Byte)
  /-- 4xkk, R185. -/
  | sneImm (x : Reg) (kk : Byte)
  /-- 5xyn, R186. The field n takes any value and is not examined (R87); it is kept so that the word can be had back
  from the instruction (log 11). -/
  | seReg (x y : Reg) (n : Nibble)
  /-- 6xkk, R141. -/
  | ldImm (x : Reg) (kk : Byte)
  /-- 7xkk, R142. -/
  | addImm (x : Reg) (kk : Byte)
  /-- 8xy0, R143. -/
  | ldReg (x y : Reg)
  /-- 8xy1, R144. -/
  | orReg (x y : Reg)
  /-- 8xy2, R145. -/
  | andReg (x y : Reg)
  /-- 8xy3, R146. -/
  | xorReg (x y : Reg)
  /-- 8xy4, R147. -/
  | addReg (x y : Reg)
  /-- 8xy5, R148. -/
  | sub (x y : Reg)
  /-- 8xy6, R149. -/
  | shr (x y : Reg)
  /-- 8xy7, R150. -/
  | subn (x y : Reg)
  /-- 8xyE, R151. -/
  | shl (x y : Reg)
  /-- 9xyn, R187. The field n is not examined (R87), as in 5xyn. -/
  | sneReg (x y : Reg) (n : Nibble)
  /-- Annn, R220. -/
  | ldI (nnn : Addr12)
  /-- Bnnn, R188. -/
  | jpV0 (nnn : Addr12)
  /-- Cxkk, R152. -/
  | rnd (x : Reg) (kk : Byte)
  /-- Dxyn, R263. -/
  | drw (x y : Reg) (n : Nibble)
  /-- Ex9E, R293. -/
  | skp (x : Reg)
  /-- ExA1, R294. -/
  | sknp (x : Reg)
  /-- Fx07, R290. -/
  | ldVxDt (x : Reg)
  /-- Fx0A, R295. -/
  | ldVxK (x : Reg)
  /-- Fx15, R291. -/
  | ldDtVx (x : Reg)
  /-- Fx18, R292. -/
  | ldStVx (x : Reg)
  /-- Fx1E, R221. -/
  | addI (x : Reg)
  /-- Fx29, R222. -/
  | ldF (x : Reg)
  /-- Fx33, R223. -/
  | ldB (x : Reg)
  /-- Fx55, R224. -/
  | ldMemVx (x : Reg)
  /-- Fx65, R225. -/
  | ldVxMem (x : Reg)
  deriving DecidableEq, Repr

/-- Why bytes are no instruction, by name. The first four are the four rows of R86's table of illegal words. -/
inductive Reject where
  /-- Category 0x0 and the word is neither 0x00E0 nor 0x00EE. -/
  | category0 (word : Word)
  /-- Category 0x8 with n one of 8, 9, A, B, C, D, F. -/
  | category8 (n : Nibble)
  /-- Category 0xE with kk neither 0x9E nor 0xA1. -/
  | categoryE (kk : Byte)
  /-- Category 0xF with kk none of the nine selectors. -/
  | categoryF (kk : Byte)
  /-- Fewer than the two bytes of an instruction (R80). The machine never meets it: a fetch reads both (R53). -/
  | tooShort
  deriving DecidableEq, Repr

end Sys2Proof
end

