-- ==== Sys2Proof/WellFormed.lean ====
section
/-! DEFINITION. Well-formed instructions. The operand types of Instr hold exactly the values that the fields of
spec/30_encoding.md R81 hold, so an ill-formed Instr cannot be built. The checks stand where a plain number becomes an
operand (R83, R88): one per operand form, each refusing a number that the field has no bits for. -/

namespace Sys2Proof

/-- A register index from a number: the field x or y has 4 bits (R81). -/
def regOfNat? (k : Nat) : Option Reg := if h : k < 16 then some ⟨k, h⟩ else none

/-- An immediate from a number: the field kk has 8 bits (R81, R83). -/
def byteOfNat? (k : Nat) : Option Byte := if k < 256 then some (BitVec.ofNat 8 k) else none

/-- A height or an unexamined nibble from a number: the field n has 4 bits (R81, R83). -/
def nibbleOfNat? (k : Nat) : Option Nibble := if k < 16 then some (BitVec.ofNat 4 k) else none

/-- An address from a number: the field nnn has 12 bits (R81, R83). -/
def addrOfNat? (k : Nat) : Option Addr12 := if k < 4096 then some (BitVec.ofNat 12 k) else none

/-- Every operand is a value its field can hold. -/
def Instr.wellFormed : Instr → Bool
  | .cls | .ret => true
  | .jp nnn | .call nnn | .ldI nnn | .jpV0 nnn => (addrOfNat? nnn.toNat).isSome
  | .seImm x kk | .sneImm x kk | .ldImm x kk | .addImm x kk | .rnd x kk =>
    (regOfNat? x.val).isSome && (byteOfNat? kk.toNat).isSome
  | .ldReg x y | .orReg x y | .andReg x y | .xorReg x y | .addReg x y | .sub x y | .shr x y | .subn x y | .shl x y =>
    (regOfNat? x.val).isSome && (regOfNat? y.val).isSome
  | .seReg x y n | .sneReg x y n | .drw x y n =>
    (regOfNat? x.val).isSome && (regOfNat? y.val).isSome && (nibbleOfNat? n.toNat).isSome
  | .skp x | .sknp x | .ldVxDt x | .ldVxK x | .ldDtVx x | .ldStVx x | .addI x | .ldF x | .ldB x | .ldMemVx x
  | .ldVxMem x => (regOfNat? x.val).isSome

end Sys2Proof
end

