-- ==== Sys2Proof/Decode.lean ====
section
/-! DEFINITION. The decoder and the encoder (spec/30_encoding.md R80 to R87), and the byte order of an instruction
(spec/20_memory.md R53, R54). -/

namespace Sys2Proof

/-- w[15:12], the category (R81). -/
def catField (w : Word) : BitVec 4 := w.extractLsb' 12 4

/-- w[11:8], the register index x (R81). -/
def xField (w : Word) : Reg := (w.extractLsb' 8 4).toFin

/-- w[7:4], the register index y (R81). -/
def yField (w : Word) : Reg := (w.extractLsb' 4 4).toFin

/-- w[3:0], the low nibble n (R81). -/
def nField (w : Word) : Nibble := w.extractLsb' 0 4

/-- w[7:0], the low byte kk (R81). -/
def kkField (w : Word) : Byte := w.extractLsb' 0 8

/-- w[11:0], the address nnn (R81). -/
def nnnField (w : Word) : Addr12 := w.extractLsb' 0 12

/-- Category 0x0: the whole word selects (R84). -/
def decode0 (w : Word) : Except Reject Instr :=
  if w = 0x00E0#16 then .ok .cls
  else if w = 0x00EE#16 then .ok .ret
  else .error (.category0 w)

/-- Category 0x8: n selects (R84). -/
def decode8 (x y : Reg) (n : Nibble) : Except Reject Instr :=
  if n = 0x0#4 then .ok (.ldReg x y)
  else if n = 0x1#4 then .ok (.orReg x y)
  else if n = 0x2#4 then .ok (.andReg x y)
  else if n = 0x3#4 then .ok (.xorReg x y)
  else if n = 0x4#4 then .ok (.addReg x y)
  else if n = 0x5#4 then .ok (.sub x y)
  else if n = 0x6#4 then .ok (.shr x y)
  else if n = 0x7#4 then .ok (.subn x y)
  else if n = 0xE#4 then .ok (.shl x y)
  else .error (.category8 n)

/-- Category 0xE: kk selects (R84). -/
def decodeE (x : Reg) (kk : Byte) : Except Reject Instr :=
  if kk = 0x9E#8 then .ok (.skp x)
  else if kk = 0xA1#8 then .ok (.sknp x)
  else .error (.categoryE kk)

/-- Category 0xF: kk selects (R84). -/
def decodeF (x : Reg) (kk : Byte) : Except Reject Instr :=
  if kk = 0x07#8 then .ok (.ldVxDt x)
  else if kk = 0x0A#8 then .ok (.ldVxK x)
  else if kk = 0x15#8 then .ok (.ldDtVx x)
  else if kk = 0x18#8 then .ok (.ldStVx x)
  else if kk = 0x1E#8 then .ok (.addI x)
  else if kk = 0x29#8 then .ok (.ldF x)
  else if kk = 0x33#8 then .ok (.ldB x)
  else if kk = 0x55#8 then .ok (.ldMemVx x)
  else if kk = 0x65#8 then .ok (.ldVxMem x)
  else .error (.categoryF kk)

/-- The decoder: a total function of the word alone (R84). -/
def decode (w : Word) : Except Reject Instr :=
  let c := catField w
  if c = 0x0#4 then decode0 w
  else if c = 0x1#4 then .ok (.jp (nnnField w))
  else if c = 0x2#4 then .ok (.call (nnnField w))
  else if c = 0x3#4 then .ok (.seImm (xField w) (kkField w))
  else if c = 0x4#4 then .ok (.sneImm (xField w) (kkField w))
  else if c = 0x5#4 then .ok (.seReg (xField w) (yField w) (nField w))
  else if c = 0x6#4 then .ok (.ldImm (xField w) (kkField w))
  else if c = 0x7#4 then .ok (.addImm (xField w) (kkField w))
  else if c = 0x8#4 then decode8 (xField w) (yField w) (nField w)
  else if c = 0x9#4 then .ok (.sneReg (xField w) (yField w) (nField w))
  else if c = 0xA#4 then .ok (.ldI (nnnField w))
  else if c = 0xB#4 then .ok (.jpV0 (nnnField w))
  else if c = 0xC#4 then .ok (.rnd (xField w) (kkField w))
  else if c = 0xD#4 then .ok (.drw (xField w) (yField w) (nField w))
  else if c = 0xE#4 then decodeE (xField w) (kkField w)
  else decodeF (xField w) (kkField w)

/-- A word from its two bytes, the byte at the lower address first: it is bits 15 to 8 (R53, R54). -/
def wordOfBytes (hi lo : Byte) : Word := hi ++ lo

/-- The byte of a word that stands at the lower address (R54). -/
def hiByte (w : Word) : Byte := w.extractLsb' 8 8

/-- The byte of a word that stands at the higher address (R54). -/
def loByte (w : Word) : Byte := w.extractLsb' 0 8

/-- The decoder over bytes: an instruction is the next two bytes (R80), and the rest is handed back. -/
def decodeBytes : List Byte → Except Reject (Instr × List Byte)
  | hi :: lo :: rest =>
    match decode (wordOfBytes hi lo) with
    | .ok i => .ok (i, rest)
    | .error r => .error r
  | _ => .error .tooShort

/-- Format NNN (R82). -/
def wordNNN (cat : BitVec 4) (nnn : Addr12) : Word := cat ++ nnn

/-- Formats XKK and XS (R82). -/
def wordXKK (cat : BitVec 4) (x : Reg) (kk : Byte) : Word := cat ++ BitVec.ofFin (w := 4) x ++ kk

/-- Formats XY, XYS and XYN (R82). -/
def wordXYN (cat : BitVec 4) (x y : Reg) (n : Nibble) : Word :=
  cat ++ BitVec.ofFin (w := 4) x ++ BitVec.ofFin (w := 4) y ++ n

/-- The word of an instruction (R82 and the patterns of R84). -/
def encode : Instr → Word
  | .cls => 0x00E0#16
  | .ret => 0x00EE#16
  | .jp nnn => wordNNN 0x1#4 nnn
  | .call nnn => wordNNN 0x2#4 nnn
  | .seImm x kk => wordXKK 0x3#4 x kk
  | .sneImm x kk => wordXKK 0x4#4 x kk
  | .seReg x y n => wordXYN 0x5#4 x y n
  | .ldImm x kk => wordXKK 0x6#4 x kk
  | .addImm x kk => wordXKK 0x7#4 x kk
  | .ldReg x y => wordXYN 0x8#4 x y 0x0#4
  | .orReg x y => wordXYN 0x8#4 x y 0x1#4
  | .andReg x y => wordXYN 0x8#4 x y 0x2#4
  | .xorReg x y => wordXYN 0x8#4 x y 0x3#4
  | .addReg x y => wordXYN 0x8#4 x y 0x4#4
  | .sub x y => wordXYN 0x8#4 x y 0x5#4
  | .shr x y => wordXYN 0x8#4 x y 0x6#4
  | .subn x y => wordXYN 0x8#4 x y 0x7#4
  | .shl x y => wordXYN 0x8#4 x y 0xE#4
  | .sneReg x y n => wordXYN 0x9#4 x y n
  | .ldI nnn => wordNNN 0xA#4 nnn
  | .jpV0 nnn => wordNNN 0xB#4 nnn
  | .rnd x kk => wordXKK 0xC#4 x kk
  | .drw x y n => wordXYN 0xD#4 x y n
  | .skp x => wordXKK 0xE#4 x 0x9E#8
  | .sknp x => wordXKK 0xE#4 x 0xA1#8
  | .ldVxDt x => wordXKK 0xF#4 x 0x07#8
  | .ldVxK x => wordXKK 0xF#4 x 0x0A#8
  | .ldDtVx x => wordXKK 0xF#4 x 0x15#8
  | .ldStVx x => wordXKK 0xF#4 x 0x18#8
  | .addI x => wordXKK 0xF#4 x 0x1E#8
  | .ldF x => wordXKK 0xF#4 x 0x29#8
  | .ldB x => wordXKK 0xF#4 x 0x33#8
  | .ldMemVx x => wordXKK 0xF#4 x 0x55#8
  | .ldVxMem x => wordXKK 0xF#4 x 0x65#8

/-- The two bytes of an instruction as memory holds them (R54). -/
def encodeBytes (i : Instr) : List Byte := [hiByte (encode i), loByte (encode i)]

/-- The word whose low `nbits` bits are those of `w` and whose other bits are 0: spec/opcode_table.json numbers the bits
of the one word as R9 does, bit 0 the least significant. -/
def tableWord (nbits w : Nat) : Word := BitVec.ofNat 16 (w % 2 ^ nbits)

/-- The instruction the decoder reads from a row's bits laid out in memory. -/
def decodeTableWord (nbits w : Nat) : Option Instr :=
  match decodeBytes [hiByte (tableWord nbits w), loByte (tableWord nbits w)] with
  | .ok (i, _) => some i
  | .error _ => none

end Sys2Proof
end

