-- ==== Sys2Proof/Config.lean ====
section
/-! DEFINITION. What is fixed for the machine (spec/00_scope.md R6) and the one free value it takes (R7). R7's other
parameter, FONT, is an argument of the reset state: Sys2Proof/Machine/Font.lean and Sys2Proof/Machine/State.lean. -/

namespace Sys2Proof

/-- MEM_SIZE (R6, R50): addresses 0x000 to 0xFFF. -/
def Config.memSize : Nat := 4096

/-- The size of the font block at address 0 (R6): a data write below it faults (R52). -/
def Config.fontSize : Nat := 80

/-- PC_RESET and PROGRAM_BASE (R6, R22). -/
def Config.programBase : Nat := 0x200

/-- STACK_DEPTH (R6, R31). -/
def Config.stackDepth : Nat := 16

/-- The random byte of a step (R7, R35, R152; spec/93_implementation_defined.md U3: any value). `Config.rnd k` is the
byte that the k-th execution of Cxkk draws. It has no body: nothing constrains it, so what is proved holds for every
draw. Safe (log 1). -/
opaque Config.rnd : Nat → Byte

end Sys2Proof
end

