-- ==== Sys2Proof/Machine/Font.lean ====
section
/-! DEFINITION. The parameter FONT (spec/00_scope.md R7, spec/20_memory.md R58): the 80 bytes at 0x000 to 0x04F. -/

namespace Sys2Proof.Machine

/-- A value of the parameter FONT (R7): one byte for each address below 0x050. -/
abbrev Font := Vector Byte Config.fontSize

/-- The table that R58 proposes, one glyph a row, glyph 0 first, each glyph's rows top first. -/
def glyphRows : List Byte :=
  [0xF0, 0x90, 0x90, 0x90, 0xF0] ++
  [0x20, 0x60, 0x20, 0x20, 0x70] ++
  [0xF0, 0x10, 0xF0, 0x80, 0xF0] ++
  [0xF0, 0x10, 0xF0, 0x10, 0xF0] ++
  [0x90, 0x90, 0xF0, 0x10, 0x10] ++
  [0xF0, 0x80, 0xF0, 0x10, 0xF0] ++
  [0xF0, 0x80, 0xF0, 0x90, 0xF0] ++
  [0xF0, 0x10, 0x20, 0x40, 0x40] ++
  [0xF0, 0x90, 0xF0, 0x90, 0xF0] ++
  [0xF0, 0x90, 0xF0, 0x10, 0xF0] ++
  [0xF0, 0x90, 0xF0, 0x90, 0x90] ++
  [0xE0, 0x90, 0xE0, 0x90, 0xE0] ++
  [0xF0, 0x80, 0x80, 0x80, 0xF0] ++
  [0xE0, 0x90, 0x90, 0x90, 0xE0] ++
  [0xF0, 0x80, 0xF0, 0x80, 0xF0] ++
  [0xF0, 0x80, 0xF0, 0x80, 0x80]

/-- The default of FONT. PRESUMED: the spec marks its bytes as general knowledge, not in its source (R7, R58, G1). Unsafe
where a claim rests on a glyph's pixels (log 3). -/
def defaultFont : Font := ⟨glyphRows.toArray, rfl⟩

end Sys2Proof.Machine
end

