-- ==== Sys2Proof/Machine/State.lean ====
section
/-! DEFINITION. The state of the machine (spec/10_state.md R20 to R37), its reset value (spec/70_reset_and_hazards.md
R360, R361), and the reasons for which a step could stop. -/

namespace Sys2Proof.Machine

/-- The fault codes, the legal values of FAULT_CODE (spec/60_exceptions.md R321). -/
inductive FaultCode where
  | none
  | fetchMisaligned
  | fetchOutOfBounds
  | illegalOpcode
  | stackOverflow
  | stackUnderflow
  | dataOutOfBounds
  | protectedWrite
  | keyIndexOutOfRange
  deriving DecidableEq, Repr

/-- What an instruction raises: the code and the value of FAULT_ADDR (R321). -/
structure Raise where
  code : FaultCode
  addr : Word
  deriving DecidableEq, Repr

/-- Memory M (R34, R50) of a machine that was given the parameter FONT (R7). -/
structure Memory where
  /-- The machine's FONT: what a reset puts at 0x000 to 0x04F (R360). An argument, which no event changes (log 3). -/
  font : Font
  /-- The cells that differ from the reset contents, by rising address (log 10). -/
  cells : List Host.Cell
  deriving DecidableEq, Repr

/-- The framebuffer (R32, R260): 32 rows of 64 packed pixels, "packed one-bit-per-pixel 64×32 display surface" (R14).
Column 0 is the most significant bit of a row, the order of the packed form of R261. -/
abbrev Framebuffer := Vector (BitVec 64) 32

/-- The machine's state. -/
structure State where
  /-- V0 to VF (R20, R21). -/
  v : Vector Byte 16
  /-- I, the index register (R25). -/
  index : Word
  /-- PC (R22, R23). -/
  pc : Word
  /-- SP: how many stack entries are in use, 0 to 16 (R26). -/
  sp : Fin 17
  /-- S[0] to S[15] (R31). -/
  stack : Vector Word 16
  /-- DT, the delay timer (R27). -/
  dt : Byte
  /-- ST, the sound timer (R28). -/
  st : Byte
  /-- FB (R32). -/
  fb : Framebuffer
  /-- K[0] to K[15], true for pressed (R33). -/
  keys : Vector Bool 16
  /-- M (R34). -/
  mem : Memory
  /-- STATUS[0] STARTED (R29). -/
  started : Bool
  /-- STATUS[1] FAULTED (R29). -/
  faulted : Bool
  /-- STATUS[2] FB_DIRTY (R29, R264). -/
  fbDirty : Bool
  /-- FAULT_CODE (R30, R321). -/
  faultCode : FaultCode
  /-- FAULT_PC (R30). -/
  faultPc : Word
  /-- FAULT_WORD (R30). -/
  faultWord : Word
  /-- FAULT_ADDR (R30). -/
  faultAddr : Word
  /-- The model's own field, not the spec's: how many random bytes have been drawn. The next Cxkk draws
  `Config.rnd draws` (R152; log 1, log 2). -/
  draws : Nat
  deriving DecidableEq, Repr

/-- The reasons for which the machine would stop without a next state. There are none: every error of this machine is a
fault whose entry R324 describes, so it is taken as a next state (log 4). The type is empty, which is safe. -/
inductive Fault where
  deriving DecidableEq, Repr

/-- Why an instruction would have no meaning. -/
inductive Refusal where
  /-- Raised by an arm of exec whose instruction has no meaning yet. No arm is left that raises it. Safe. -/
  | notModelled (mnemonic : String)
  deriving DecidableEq, Repr

/-- What a step answers. -/
abbrev Result := Host.Outcome State Fault Refusal

/-- The machine right after reset, for any FONT (R7, R360, R361). `draws` is the model's own (log 2). -/
def State.resetWith (f : Font) : State where
  v := Vector.replicate 16 0x00#8
  index := 0x0000#16
  pc := 0x0200#16
  sp := 0
  stack := Vector.replicate 16 0x0000#16
  dt := 0x00#8
  st := 0x00#8
  fb := Vector.replicate 32 0#64
  keys := Vector.replicate 16 false
  mem := { font := f, cells := [] }
  started := false
  faulted := false
  fbDirty := false
  faultCode := .none
  faultPc := 0x0000#16
  faultWord := 0x0000#16
  faultAddr := 0x0000#16
  draws := 0

/-- The machine right after reset, with the default of FONT (R58, R360; log 3). -/
def State.reset : State := State.resetWith defaultFont

end Sys2Proof.Machine
end

