-- ==== Sys2Proof/Machine/Ops.lean ====
section
/-! DEFINITION. The named operations over memory, registers and the stack, the end of a step, and taking a fault. -/

namespace Sys2Proof.Machine

/-! ### Memory (spec/20_memory.md) -/

/-- What an address that memory does not list reads as: the reset contents, FONT below 0x050 and 0x00 from there
(R34, R57, R360). -/
def unlisted (f : Font) (a : Nat) : Byte := if h : a < Config.fontSize then f[a] else 0x00#8

/-- The byte at an address, from the listed cells. -/
def readCells (f : Font) : List Host.Cell → Nat → Byte
  | [], a => unlisted f a
  | (k, b) :: rest, a => if k = a then b else readCells f rest a

/-- Put a cell at its place by rising address, over the cell of that address where there is one. -/
def insertCell : List Host.Cell → Nat → Byte → List Host.Cell
  | [], a, b => [(a, b)]
  | (k, c) :: rest, a, b =>
    if a < k then (a, b) :: (k, c) :: rest
    else if k = a then (a, b) :: rest
    else (k, c) :: insertCell rest a b

/-- Take the cells of an address out. -/
def eraseCell (l : List Host.Cell) (a : Nat) : List Host.Cell := l.filter fun c => c.1 != a

/-- The canonical form of the listed cells: addresses strictly rising and inside memory (R50), and no cell that equals its
unlisted value. -/
def wfCells (f : Font) : List Host.Cell → Bool
  | [] => true
  | (a, b) :: rest =>
    decide (a < Config.memSize) && (b != unlisted f a) && rest.all (fun c => decide (a < c.1)) && wfCells f rest

/-- M[a] (R50). -/
def Memory.read (m : Memory) (a : Nat) : Byte := readCells m.font m.cells a

/-- M[a] <- b, keeping the canonical form: an address that holds what it would read as unlisted is not listed. -/
def Memory.write (m : Memory) (a : Nat) (b : Byte) : Memory :=
  { m with cells := if b = unlisted m.font a then eraseCell m.cells a else insertCell m.cells a b }

/-- Memory is in canonical form. -/
def Memory.wf (m : Memory) : Bool := wfCells m.font m.cells

/-- The n bytes M[a], M[a + 1], ..., lowest first (R56). -/
def Memory.readBlock (m : Memory) (a n : Nat) : List Byte := (List.range n).map fun k => Memory.read m (a + k)

/-- Store bytes at a, a + 1, ..., lowest first (R56). -/
def Memory.writeBlock : Memory → Nat → List Byte → Memory
  | m, _, [] => m
  | m, a, b :: rest => Memory.writeBlock (Memory.write m a b) (a + 1) rest

/-- The test of the data read primitive (R51). FAULT_ADDR has 16 bits; no offending address exceeds them (R30). -/
def readOffence (a : Nat) : Option Raise :=
  if 0xFFF < a then some ⟨.dataOutOfBounds, BitVec.ofNat 16 a⟩ else none

/-- The tests of the data write primitive (R52). -/
def writeOffence (a : Nat) : Option Raise :=
  if 0xFFF < a then some ⟨.dataOutOfBounds, BitVec.ofNat 16 a⟩
  else if a < Config.fontSize then some ⟨.protectedWrite, BitVec.ofNat 16 a⟩
  else none

/-- The first of the addresses a, a + 1, ..., a + n - 1 that a test refuses, lowest first (R56, R323). -/
def firstOffence (test : Nat → Option Raise) : Nat → Nat → Option Raise
  | _, 0 => none
  | a, n + 1 =>
    match test a with
    | some r => some r
    | none => firstOffence test (a + 1) n

/-! ### Registers (spec/10_state.md) -/

/-- V[r] (R10, R20). -/
def State.reg (s : State) (r : Reg) : Byte := s.v[r.val]

/-- V[r] <- b (R10, R20). -/
def State.setReg (s : State) (r : Reg) (b : Byte) : State := { s with v := s.v.set r.val b }

/-- Write bytes to V[k], V[k + 1], ... (R225). -/
def setRegs (v : Vector Byte 16) : Nat → List Byte → Vector Byte 16
  | _, [] => v
  | k, b :: rest => setRegs (v.setIfInBounds k b) (k + 1) rest

/-- V[0], V[1], ... <- the bytes, in order (R225). -/
def State.loadRegs (s : State) (bs : List Byte) : State := { s with v := setRegs s.v 0 bs }

/-- I <- w (R25). -/
def State.setIndex (s : State) (w : Word) : State := { s with index := w }

/-- DT <- b (R27). -/
def State.setDt (s : State) (b : Byte) : State := { s with dt := b }

/-- ST <- b (R28). -/
def State.setSt (s : State) (b : Byte) : State := { s with st := b }

/-- M <- m. -/
def State.setMem (s : State) (m : Memory) : State := { s with mem := m }

/-- FB <- f, and FB_DIRTY <- 1 as every write of the framebuffer does (R264). -/
def State.setFb (s : State) (f : Framebuffer) : State := { s with fb := f, fbDirty := true }

/-- The random byte of this step is used: the next draw is a fresh one (R152). -/
def State.drawn (s : State) : State := { s with draws := s.draws + 1 }

/-! ### The stack (R26, R31) -/

/-- S[SP] <- w, then SP <- SP + 1 (R183). Used at SP < 16. -/
def State.push (s : State) (w : Word) : State :=
  { s with stack := s.stack.setIfInBounds s.sp.val w, sp := Fin.ofNat 17 (s.sp.val + 1) }

/-- S[SP - 1], the top entry (R31). Used at SP > 0. -/
def State.top (s : State) : Word :=
  s.stack[s.sp.val - 1]'(by omega)

/-- SP <- SP - 1; the entry keeps its value (R31, R181). Used at SP > 0. -/
def State.pop (s : State) : State := { s with sp := Fin.ofNat 17 (s.sp.val - 1) }

/-! ### The end of a step (spec/40_engine_cycle.md R112, R113) -/

/-- PC <- w. -/
def State.setPc (s : State) (w : Word) : State := { s with pc := w }

/-- STATUS.STARTED <- 1 (R112). -/
def State.start (s : State) : State := { s with started := true }

/-- Commit the working copy: PC <- pc_next, with STARTED set as every step sets it (R112; log 5). -/
def finish (pcNext : Word) (s : State) : Result := .next (s.setPc pcNext).start

/-- pc_next = PC + 2 (R113). -/
def advance (s : State) : Result := finish (s.pc + 2#16) s

/-- A skip: pc_next = PC + 4 when it is taken, PC + 2 when it is not (R113, R189). -/
def skipIf (taken : Bool) (s : State) : Result := finish (if taken then s.pc + 4#16 else s.pc + 2#16) s

/-- pc_next = a target, not checked here (R180). -/
def jump (target : Word) (s : State) : Result := finish target s

/-! ### Taking a fault (spec/60_exceptions.md R320 to R325) -/

/-- R324: the state before the step, plus the record. `w` is the word that was fetched, 0x0000 for codes 1 and 2. There
is no return from a fault (R325). -/
def State.takeFault (s : State) (r : Raise) (w : Word) : State :=
  { s with
    started := true
    faulted := true
    faultCode := r.code
    faultPc := s.pc
    faultWord := w
    faultAddr := r.addr }

/-- An instruction that may raise: it takes the fault where there is an offence, with its own word (log 6), and answers
its effect where there is none. The offence is tested before any change (R115, D31). -/
def guarded (offence : Option Raise) (i : Instr) (s : State) (effect : Result) : Result :=
  match offence with
  | some r => .next (s.takeFault r (encode i))
  | none => effect

end Sys2Proof.Machine
end

