-- ==== Sys2Proof/Machine/Flags.lean ====
section
/-! DEFINITION. The flag computations: what VF receives (spec/41_alu.md R140, R147 to R151; spec/44_draw_sprite.md
R263). There is no other flag (spec/10_state.md R24). -/

namespace Sys2Proof.Machine

/-- [p]: 1 when p holds and 0 otherwise (R153). -/
def flagOf (p : Bool) : Byte := if p then 1#8 else 0#8

/-- The carry of an exact sum (R147). -/
def carryFlag (sum : Nat) : Byte := flagOf (decide (255 < sum))

/-- The not-borrow of minuend - subtrahend (R148, R150). -/
def notBorrowFlag (minuend subtrahend : Byte) : Byte := flagOf (decide (subtrahend.toNat ≤ minuend.toNat))

/-- The bit that a right shift by one shifts out (R149). -/
def shrFlag (b : Byte) : Byte := flagOf (b.getLsbD 0)

/-- The bit that a left shift by one shifts out (R151). -/
def shlFlag (b : Byte) : Byte := flagOf (b.getLsbD 7)

/-- The two phases of a flag-writing instruction: VF <- the flag, then V[x] <- the result, computed from the registers
as the first phase left them (R140, R11). -/
def flagThenResult (flag : Byte) (x : Reg) (result : State → Byte) (s : State) : State :=
  let s1 := s.setReg vf flag
  s1.setReg x (result s1)

end Sys2Proof.Machine
end

