-- ==== Sys2Proof/Machine/Framebuffer.lean ====
section
/-! DEFINITION. The framebuffer and the sprite XOR compositor (spec/44_draw_sprite.md R260 to R263). -/

namespace Sys2Proof.Machine

/-- FB(c, r) (R260). -/
def pixel (fb : Framebuffer) (c : Fin 64) (r : Fin 32) : Bool := (fb[r.val]).getMsbD c.val

/-- FB(c, r) <- FB(c, r) XOR 1 (R263). -/
def togglePixel (fb : Framebuffer) (c : Fin 64) (r : Fin 32) : Framebuffer :=
  fb.set r.val (fb[r.val] ^^^ BitVec.twoPow 64 (63 - c.val))

/-- Every pixel 0 (R262). -/
def clearFb : Framebuffer := Vector.replicate 32 0#64

/-- A framebuffer being drawn on, and whether a set pixel has been turned off (VF of R263). -/
abbrev Canvas := Framebuffer × Bool

/-- Column ox + j, wrapped on its own (R263). -/
def wrapCol (ox : Fin 64) (j : Nat) : Fin 64 := Fin.ofNat 64 (ox.val + j)

/-- Row oy + r, wrapped on its own (R263). -/
def wrapRow (oy : Fin 32) (r : Nat) : Fin 32 := Fin.ofNat 32 (oy.val + r)

/-- One pixel of a sprite row: bit 7 - j of the row's byte goes to column ox + j (R263). -/
def drawBit (row : Byte) (ox : Fin 64) (q : Fin 32) (cv : Canvas) (j : Nat) : Canvas :=
  if row.getLsbD (7 - j) then (togglePixel cv.1 (wrapCol ox j) q, cv.2 || pixel cv.1 (wrapCol ox j) q) else cv

/-- One sprite row: j from 0 to 7 (R263). -/
def drawRow (row : Byte) (ox : Fin 64) (q : Fin 32) (cv : Canvas) : Canvas :=
  [0, 1, 2, 3, 4, 5, 6, 7].foldl (drawBit row ox q) cv

/-- The sprite's rows from row number r on (R263). -/
def drawRows (ox : Fin 64) (oy : Fin 32) : Nat → List Byte → Canvas → Canvas
  | _, [], cv => cv
  | r, row :: rest, cv => drawRows ox oy (r + 1) rest (drawRow row ox (wrapRow oy r) cv)

/-- Draw a whole sprite: VF starts at 0 before the loop (R263). -/
def drawSprite (fb : Framebuffer) (ox : Fin 64) (oy : Fin 32) (rows : List Byte) : Canvas :=
  drawRows ox oy 0 rows (fb, false)

/-- P[b], the packed byte b of the framebuffer: bit 7 - j is FB(8 (b mod 8) + j, b div 8) (R261). -/
def packedByte (fb : Framebuffer) (b : Byte) : Byte :=
  (fb[b.toNat / 8]'(by have := b.isLt; omega)).extractLsb' (56 - 8 * (b.toNat % 8)) 8

end Sys2Proof.Machine
end

