-- ==== Sys2Proof/Machine/Operands.lean ====
section
/-! DEFINITION. The operand forms: how the fields of an instruction (spec/30_encoding.md R83) and the registers they
name become the values that the meanings use. -/

namespace Sys2Proof.Machine

/-- nnn as a 16-bit value, zero-extended (R83). -/
def zextAddr (nnn : Addr12) : Word := nnn.zeroExtend 16

/-- A byte as a 16-bit value, zero-extended (R9, R83). -/
def zextByte (b : Byte) : Word := b.zeroExtend 16

/-- The target of Bnnn: nnn + V[0], which never wraps (R188). -/
def computedTarget (nnn : Addr12) (v0 : Byte) : Word := zextAddr nnn + zextByte v0

/-- The address of the glyph numbered b, the number not masked (R222). -/
def glyphAddr (b : Byte) : Word := BitVec.ofNat 16 (b.toNat * 5)

/-- The three decimal digits of a byte, hundreds first (R223). -/
def bcdDigits (b : Byte) : List Byte :=
  [BitVec.ofNat 8 (b.toNat / 100), BitVec.ofNat 8 (b.toNat / 10 % 10), BitVec.ofNat 8 (b.toNat % 10)]

/-- How many registers Fx55 and Fx65 move: x + 1 (R83). -/
def blockLen (x : Reg) : Nat := x.val + 1

/-- V[0], ..., V[x] (R224). -/
def State.regBlock (s : State) (x : Reg) : List Byte := s.v.toList.take (blockLen x)

/-- I as an address: an unbounded integer (R51). -/
def State.dataAddr (s : State) : Nat := s.index.toNat

/-- I after a register block: I + x + 1 (R224, R225). -/
def State.indexPast (s : State) (x : Reg) : Word := s.index + BitVec.ofNat 16 (blockLen x)

/-- The column of a sprite's origin (R263). -/
def originCol (b : Byte) : Fin 64 := Fin.ofNat 64 b.toNat

/-- The row of a sprite's origin (R263). -/
def originRow (b : Byte) : Fin 32 := Fin.ofNat 32 b.toNat

/-- The test of a key index (R293, R294). -/
def keyOffence (b : Byte) : Option Raise := if 0xF < b.toNat then some ⟨.keyIndexOutOfRange, zextByte b⟩ else none

/-- K[b] for a key index b of at most 0xF, which `keyOffence` has checked (R33, R293). -/
def State.key (s : State) (b : Byte) : Bool := s.keys[b.toNat % 16]'(Nat.mod_lt _ (by decide))

/-- The least k with K[k] = 1 (R295). -/
def State.lowestKey (s : State) : Option (Fin 16) := (List.finRange 16).find? fun k => s.keys[k.val]

/-- 2nnn with SP = 16 (R183). -/
def State.callOffence (s : State) : Option Raise :=
  if s.sp.val = Config.stackDepth then some ⟨.stackOverflow, 16#16⟩ else none

/-- 00EE with SP = 0 (R181). -/
def State.retOffence (s : State) : Option Raise :=
  if s.sp.val = 0 then some ⟨.stackUnderflow, 0#16⟩ else none

end Sys2Proof.Machine
end

