-- ==== Sys2Proof/Machine/Alu.lean ====
section
/-! DEFINITION. The meanings of the ALU family (spec/41_alu.md). -/

namespace Sys2Proof.Machine

/-- 6xkk: V[x] <- kk (R141). -/
def execLdImm (x : Reg) (kk : Byte) (s : State) : Result := advance (s.setReg x kk)

/-- 7xkk: V[x] <- (V[x] + kk) mod 256, no flag (R142). -/
def execAddImm (x : Reg) (kk : Byte) (s : State) : Result := advance (s.setReg x (s.reg x + kk))

/-- 8xy0: V[x] <- V[y] (R143). -/
def execLdReg (x y : Reg) (s : State) : Result := advance (s.setReg x (s.reg y))

/-- 8xy1: V[x] <- V[x] OR V[y] (R144). -/
def execOrReg (x y : Reg) (s : State) : Result := advance (s.setReg x (s.reg x ||| s.reg y))

/-- 8xy2: V[x] <- V[x] AND V[y] (R145). -/
def execAndReg (x y : Reg) (s : State) : Result := advance (s.setReg x (s.reg x &&& s.reg y))

/-- 8xy3: V[x] <- V[x] XOR V[y] (R146). -/
def execXorReg (x y : Reg) (s : State) : Result := advance (s.setReg x (s.reg x ^^^ s.reg y))

/-- 8xy4: the sum is formed first, then VF <- carry, then V[x] <- sum mod 256 (R147). -/
def execAddReg (x y : Reg) (s : State) : Result :=
  let sum := (s.reg x).toNat + (s.reg y).toNat
  advance (flagThenResult (carryFlag sum) x (fun _ => BitVec.ofNat 8 sum) s)

/-- 8xy5: VF <- not-borrow of V[x] - V[y], then V[x] <- V[x] - V[y] (R148). -/
def execSub (x y : Reg) (s : State) : Result :=
  advance (flagThenResult (notBorrowFlag (s.reg x) (s.reg y)) x (fun s1 => s1.reg x - s1.reg y) s)

/-- 8xy6: VF <- bit 0 of V[y], then V[x] <- V[y] >> 1 (R149). -/
def execShr (x y : Reg) (s : State) : Result :=
  advance (flagThenResult (shrFlag (s.reg y)) x (fun s1 => s1.reg y >>> 1) s)

/-- 8xy7: VF <- not-borrow of V[y] - V[x], then V[x] <- V[y] - V[x] (R150). -/
def execSubn (x y : Reg) (s : State) : Result :=
  advance (flagThenResult (notBorrowFlag (s.reg y) (s.reg x)) x (fun s1 => s1.reg y - s1.reg x) s)

/-- 8xyE: VF <- bit 7 of V[y], then V[x] <- (V[y] * 2) mod 256 (R151). -/
def execShl (x y : Reg) (s : State) : Result :=
  advance (flagThenResult (shlFlag (s.reg y)) x (fun s1 => s1.reg y <<< 1) s)

/-- V[x] <- rnd AND kk for the byte that is drawn (R152). -/
def maskedRandom (drawnByte : Byte) (x : Reg) (kk : Byte) (s : State) : State := s.setReg x (drawnByte &&& kk)

/-- Cxkk: draw a fresh byte, V[x] <- rnd AND kk (R152). The byte is a free value (log 1). -/
def execRnd (x : Reg) (kk : Byte) (s : State) : Result := advance (maskedRandom (Config.rnd s.draws) x kk s).drawn

end Sys2Proof.Machine
end

