-- ==== Sys2Proof/Machine/Block.lean ====
section
/-! DEFINITION. The meanings of the index-register and memory family (spec/43_memory_register_block.md). Every address
of an instruction is checked, lowest first, before any access (spec/20_memory.md R56). -/

namespace Sys2Proof.Machine

/-- Annn: I <- nnn (R220). -/
def execLdI (nnn : Addr12) (s : State) : Result := advance (s.setIndex (zextAddr nnn))

/-- Fx1E: I <- (I + V[x]) mod 2^16, no flag (R221). -/
def execAddI (x : Reg) (s : State) : Result := advance (s.setIndex (s.index + zextByte (s.reg x)))

/-- Fx29: I <- V[x] * 5 (R222). -/
def execLdF (x : Reg) (s : State) : Result := advance (s.setIndex (glyphAddr (s.reg x)))

/-- Fx33: the decimal digits of V[x] to M[I], M[I + 1], M[I + 2] (R223). -/
def execLdB (x : Reg) (s : State) : Result :=
  guarded (firstOffence writeOffence s.dataAddr 3) (.ldB x) s
    (advance (s.setMem (s.mem.writeBlock s.dataAddr (bcdDigits (s.reg x)))))

/-- Fx55: V[0] to V[x] to M[I], ..., M[I + x], then I <- I + x + 1 (R224). -/
def execLdMemVx (x : Reg) (s : State) : Result :=
  guarded (firstOffence writeOffence s.dataAddr (blockLen x)) (.ldMemVx x) s
    (advance ((s.setMem (s.mem.writeBlock s.dataAddr (s.regBlock x))).setIndex (s.indexPast x)))

/-- Fx65: M[I], ..., M[I + x] to V[0] to V[x], then I <- I + x + 1 (R225). -/
def execLdVxMem (x : Reg) (s : State) : Result :=
  guarded (firstOffence readOffence s.dataAddr (blockLen x)) (.ldVxMem x) s
    (advance ((s.loadRegs (s.mem.readBlock s.dataAddr (blockLen x))).setIndex (s.indexPast x)))

end Sys2Proof.Machine
end

