-- ==== Sys2Proof/Machine/Control.lean ====
section
/-! DEFINITION. The meanings of the control-flow family (spec/42_control_flow.md). -/

namespace Sys2Proof.Machine

/-- 00EE: SP <- SP - 1, pc_next <- S[SP]; STACK_UNDERFLOW at SP = 0 (R181). -/
def execRet (s : State) : Result := guarded s.retOffence .ret s (jump s.top s.pop)

/-- 1nnn: pc_next <- nnn (R182). -/
def execJp (nnn : Addr12) (s : State) : Result := jump (zextAddr nnn) s

/-- 2nnn: S[SP] <- PC + 2, SP <- SP + 1, pc_next <- nnn; STACK_OVERFLOW at SP = 16 (R183). -/
def execCall (nnn : Addr12) (s : State) : Result :=
  guarded s.callOffence (.call nnn) s (jump (zextAddr nnn) (s.push (s.pc + 2#16)))

/-- 3xkk: skip if V[x] = kk (R184). -/
def execSeImm (x : Reg) (kk : Byte) (s : State) : Result := skipIf (s.reg x == kk) s

/-- 4xkk: skip if V[x] ≠ kk (R185). -/
def execSneImm (x : Reg) (kk : Byte) (s : State) : Result := skipIf (s.reg x != kk) s

/-- 5xyn: skip if V[x] = V[y]; n is not examined (R186, R87). -/
def execSeReg (x y : Reg) (s : State) : Result := skipIf (s.reg x == s.reg y) s

/-- 9xyn: skip if V[x] ≠ V[y]; n is not examined (R187, R87). -/
def execSneReg (x y : Reg) (s : State) : Result := skipIf (s.reg x != s.reg y) s

/-- Bnnn: pc_next <- nnn + V[0] (R188). -/
def execJpV0 (nnn : Addr12) (s : State) : Result := jump (computedTarget nnn (s.reg 0)) s

end Sys2Proof.Machine
end

