-- ==== Sys2Proof/Machine/Draw.lean ====
section
/-! DEFINITION. The meanings of the draw family (spec/44_draw_sprite.md). -/

namespace Sys2Proof.Machine

/-- 00E0: every pixel 0, FB_DIRTY <- 1; VF is unchanged (R262). -/
def execCls (s : State) : Result := advance (s.setFb clearFb)

/-- The sprite that Dxyn draws: n bytes from M[I], at the origin (V[x] mod 64, V[y] mod 32), sampled before VF is reset
(R263, D12). -/
def State.drawnCanvas (s : State) (x y : Reg) (n : Nibble) : Canvas :=
  drawSprite s.fb (originCol (s.reg x)) (originRow (s.reg y)) (s.mem.readBlock s.dataAddr n.toNat)

/-- Dxyn: XOR the sprite onto the framebuffer, VF <- collision, FB_DIRTY <- 1; DATA_OUT_OF_BOUNDS where a sprite byte lies
above 0xFFF (R263). -/
def execDrw (x y : Reg) (n : Nibble) (s : State) : Result :=
  guarded (firstOffence readOffence s.dataAddr n.toNat) (.drw x y n) s
    (advance ((s.setReg vf (flagOf (s.drawnCanvas x y n).2)).setFb (s.drawnCanvas x y n).1))

end Sys2Proof.Machine
end

