-- ==== Sys2Proof/Machine/TimerKey.lean ====
section
/-! DEFINITION. The meanings of the timer and key family (spec/45_timers_keys.md). -/

namespace Sys2Proof.Machine

/-- Fx07: V[x] <- DT (R290). -/
def execLdVxDt (x : Reg) (s : State) : Result := advance (s.setReg x s.dt)

/-- Fx15: DT <- V[x] (R291). -/
def execLdDtVx (x : Reg) (s : State) : Result := advance (s.setDt (s.reg x))

/-- Fx18: ST <- V[x] (R292). -/
def execLdStVx (x : Reg) (s : State) : Result := advance (s.setSt (s.reg x))

/-- Ex9E: skip if the key numbered V[x] is pressed; KEY_INDEX_OUT_OF_RANGE above 0xF (R293). -/
def execSkp (x : Reg) (s : State) : Result :=
  guarded (keyOffence (s.reg x)) (.skp x) s (skipIf (s.key (s.reg x)) s)

/-- ExA1: skip if the key numbered V[x] is not pressed; KEY_INDEX_OUT_OF_RANGE above 0xF (R294). -/
def execSknp (x : Reg) (s : State) : Result :=
  guarded (keyOffence (s.reg x)) (.sknp x) s (skipIf (!s.key (s.reg x)) s)

/-- Fx0A: V[x] <- the lowest-indexed pressed key; with none pressed pc_next <- PC, so that the same word is fetched at
the next step (R295). -/
def execLdVxK (x : Reg) (s : State) : Result :=
  match s.lowestKey with
  | none => finish s.pc s
  | some k => advance (s.setReg x (BitVec.ofNat 8 k.val))

end Sys2Proof.Machine
end

