-- ==== Sys2Proof/Machine/Fetch.lean ====
section
/-! DEFINITION. The front of the engine cycle: fetch and decode (spec/40_engine_cycle.md R112). -/

namespace Sys2Proof.Machine

/-- {M[PC], M[PC + 1]} (R53, R54). -/
def State.wordAt (s : State) (a : Nat) : Word := wordOfBytes (s.mem.read a) (s.mem.read (a + 1))

/-- The tests of FetchWord, in its order (R53, R323). -/
def fetchOffence (pc : Word) : Option Raise :=
  if pc.getLsbD 0 then some ⟨.fetchMisaligned, pc⟩
  else if 0xFFE < pc.toNat then some ⟨.fetchOutOfBounds, pc⟩
  else none

/-- The front of a step: an instruction to execute, or the state in which the step ends without one. A step in FAULTED
changes nothing (R116); a fetch fault records the word 0x0000, an illegal word is recorded (R324). -/
def State.front (s : State) : Except State Instr :=
  if s.faulted then .error s
  else
    match fetchOffence s.pc with
    | some r => .error (s.takeFault r 0x0000#16)
    | none =>
      match decode (s.wordAt s.pc.toNat) with
      | .error _ => .error (s.takeFault ⟨.illegalOpcode, s.pc⟩ (s.wordAt s.pc.toNat))
      | .ok i => .ok i

/-- Store an instruction word where the next step fetches, in the byte order of R54, and clear FAULTED, without which no
step fetches (log 8). -/
def State.placeWord (s : State) (w : Word) : State :=
  { s with
    mem := ((s.mem.write s.pc.toNat (hiByte w)).write (s.pc.toNat + 1) (loByte w))
    faulted := false }

end Sys2Proof.Machine
end

