-- ==== Sys2Proof/Machine/Step.lean ====
section
/-! DEFINITION. One step of the engine (spec/40_engine_cycle.md R112, R116), and the placing of the next instruction. -/

namespace Sys2Proof.Machine

/-- A `step` event: fetch, decode, execute, commit (R112). -/
def step (s : State) : Host.Outcome State Fault Refusal :=
  match s.front with
  | .error t => .next t
  | .ok i => exec i s

/-- The state in which the next step fetches the row's instruction (log 8). -/
def State.withFetchWord (s : State) (nbits w : Nat) : State := s.placeWord (tableWord nbits w)

end Sys2Proof.Machine
end

