-- ==== Sys2Proof/Machine/Ports.lean ====
section
/-! DEFINITION. The block's ports (spec/40_engine_cycle.md R110, R111, R116 to R121): the host's events and the outputs. -/

namespace Sys2Proof.Machine

/-- A host event (R111). `step` takes its random byte from the free stream of `Config.rnd` (log 1). -/
inductive Event where
  /-- Execute one instruction (R112). -/
  | step
  /-- Decrement DT and ST toward 0 (R117). -/
  | tick
  /-- K[k] <- v (R118). -/
  | keyWrite (k : Fin 16) (v : Bool)
  /-- A program-load write; the address port has 12 bits (R119). -/
  | load (addr : Addr12) (data : Byte)
  /-- Clear FB_DIRTY (R120). -/
  | fbAck
  /-- Return every item of state to its reset value (R360). -/
  | reset
  deriving DecidableEq, Repr

/-- One less, but not below 0 (R117). -/
def countDown (b : Byte) : Byte := if b = 0#8 then 0#8 else b - 1#8

/-- Tick() outside FAULTED (R117). -/
def State.tick (s : State) : State := { s with dt := countDown s.dt, st := countDown s.st }

/-- key_write(k, v) outside FAULTED (R118). -/
def State.keyWrite (s : State) (k : Fin 16) (v : Bool) : State := { s with keys := s.keys.set k.val v }

/-- Load(addr, data) outside FAULTED: ignored once STARTED, and below 0x200 (R119). -/
def State.load (s : State) (addr : Addr12) (data : Byte) : State :=
  if s.started then s
  else if addr.toNat < Config.programBase then s
  else s.setMem (s.mem.write addr.toNat data)

/-- fb_ack outside FAULTED (R120). -/
def State.fbAck (s : State) : State := { s with fbDirty := false }

/-- Reset(), accepted in every state (R360), with the machine's own FONT. The random source is not state and reset has no effect on it, so the model's
own `draws` is kept: the draws after a reset are as free as before (log 2). -/
def State.resetEvent (s : State) : State := { State.resetWith s.mem.font with draws := s.draws }

/-- An event that FAULTED blocks (R116). -/
def State.unlessFaulted (s t : State) : State := if s.faulted then s else t

/-- What an event does. In FAULTED only reset changes the state (R116). -/
def State.onEvent (s : State) : Event → Result
  | .step => step s
  | .tick => .next (s.unlessFaulted s.tick)
  | .keyWrite k v => .next (s.unlessFaulted (s.keyWrite k v))
  | .load addr data => .next (s.unlessFaulted (s.load addr data))
  | .fbAck => .next (s.unlessFaulted s.fbAck)
  | .reset => .next s.resetEvent

/-- Events in the host's order (R110, R365). -/
def State.onEvents (s : State) : List Event → Result
  | [] => .next s
  | e :: rest =>
    match s.onEvent e with
    | .next t => State.onEvents t rest
    | .fault r => .fault r
    | .refused r => .refused r

/-! ### Outputs (R121): functions of the state that change nothing. The `diag` port is the state itself. -/

/-- The code numbers of R321. -/
def faultCodeBits : FaultCode → BitVec 4
  | .none => 0
  | .fetchMisaligned => 1
  | .fetchOutOfBounds => 2
  | .illegalOpcode => 3
  | .stackOverflow => 4
  | .stackUnderflow => 5
  | .dataOutOfBounds => 6
  | .protectedWrite => 7
  | .keyIndexOutOfRange => 8

/-- `fb_dirty` (R121). -/
def State.fbDirtyOut (s : State) : Bool := s.fbDirty

/-- `sound_active` = (ST ≠ 0) (R121, R28). -/
def State.soundActive (s : State) : Bool := s.st != 0#8

/-- `faulted` (R121). -/
def State.faultedOut (s : State) : Bool := s.faulted

/-- `fault_code` (R121). -/
def State.faultCodeOut (s : State) : BitVec 4 := faultCodeBits s.faultCode

/-- `fb_rdata` at `fb_raddr` (R261). -/
def State.fbRdata (s : State) (raddr : Byte) : Byte := packedByte s.fb raddr

/-- STATUS as the diagnostic port shows it: bit 0 STARTED, bit 1 FAULTED, bit 2 FB_DIRTY (R29). -/
def State.status (s : State) : BitVec 3 :=
  BitVec.ofBool s.fbDirty ++ BitVec.ofBool s.faulted ++ BitVec.ofBool s.started

/-- SP as the diagnostic port shows it, 5 bits (R26). -/
def State.spBits (s : State) : BitVec 5 := BitVec.ofNat 5 s.sp.val

end Sys2Proof.Machine
end

