-- ==== Sys2Proof/Safety.lean ====
section
/-! DEFINITION. The terms in which claims are made: what an instruction may change, what a completed instruction and a
taken fault leave, the invariants of the machine, and the two ends of a run. -/

namespace Sys2Proof.Machine

/-! ### Frames -/

/-- What an instruction may write, PC and STARTED apart. Whatever is not named here keeps its value. -/
structure Changes where
  /-- General registers, VF among them (R20, R21). -/
  regs : List Reg := []
  /-- I (R25). -/
  index : Bool := false
  /-- SP and the stack (R26, R31). -/
  stack : Bool := false
  /-- DT (R27). -/
  dt : Bool := false
  /-- ST (R28). -/
  st : Bool := false
  /-- The framebuffer and FB_DIRTY (R32, R264). -/
  display : Bool := false
  /-- The bytes memFrom, ..., memFrom + memLen - 1 of memory (R34). -/
  memFrom : Nat := 0
  memLen : Nat := 0
  /-- The model's counter of random bytes (log 1). -/
  draws : Bool := false

/-- From s to t nothing changes but what `c` names, PC and STARTED: every other register, every pixel, every byte of
memory, the parameter FONT, the keys, FAULTED and the fault record are as before. -/
def UnchangedBut (c : Changes) (s t : State) : Prop :=
  (∀ r, r ∉ c.regs → t.reg r = s.reg r) ∧
  (c.index = false → t.index = s.index) ∧
  (c.stack = false → t.sp = s.sp ∧ t.stack = s.stack) ∧
  (c.dt = false → t.dt = s.dt) ∧
  (c.st = false → t.st = s.st) ∧
  (c.display = false → (∀ x y, pixel t.fb x y = pixel s.fb x y) ∧ t.fbDirty = s.fbDirty) ∧
  (∀ a, ¬(c.memFrom ≤ a ∧ a < c.memFrom + c.memLen) → t.mem.read a = s.mem.read a) ∧
  t.mem.font = s.mem.font ∧
  t.keys = s.keys ∧
  t.faulted = s.faulted ∧ t.faultCode = s.faultCode ∧ t.faultPc = s.faultPc ∧ t.faultWord = s.faultWord ∧
  t.faultAddr = s.faultAddr ∧
  (c.draws = false → t.draws = s.draws)

/-- An instruction has completed: PC holds `pcNext`, STARTED is set (R112), and nothing changed but what `c` names. -/
def Completed (c : Changes) (pcNext : Word) (s t : State) : Prop :=
  t.pc = pcNext ∧ t.started = true ∧ UnchangedBut c s t

/-- A fault has been taken (R324): STARTED and FAULTED are set, the record holds the code, the address of the instruction,
its word and the address value, and every other item of state is that of `s`. -/
def FaultTaken (code : FaultCode) (addr word : Word) (s t : State) : Prop :=
  t = { s with started := true, faulted := true, faultCode := code, faultPc := s.pc, faultWord := word, faultAddr := addr }

/-! ### Invariants -/

/-- Memory is in canonical form. -/
def MemoryInv (s : State) : Prop := s.mem.wf = true

/-- The font block holds the machine's FONT (R57, R58). -/
def FontInv (s : State) : Prop := ∀ a < 0x050, s.mem.font[a]? = some (s.mem.read a)

/-- PC is at most 0x10FE (R23), and every stack entry in use is an even address of at most 0x1000 (R181: the address
following a call, whose own address was fetched from). -/
def PcInv (s : State) : Prop :=
  s.pc.toNat ≤ 0x10FE ∧
  ∀ k (h : k < 16), k < s.sp.val → (s.stack[k]).toNat % 2 = 0 ∧ 2 ≤ (s.stack[k]).toNat ∧ (s.stack[k]).toNat ≤ 0x1000

/-- The fault record agrees with STATUS (R29, R30): FAULTED is set exactly when FAULT_CODE is not NONE, the rest of the
record is 0 while no fault has been taken, and a block that has faulted has STARTED. -/
def RecordInv (s : State) : Prop :=
  (s.faulted = true ↔ s.faultCode ≠ .none) ∧
  (s.faulted = false → s.faultPc = 0#16 ∧ s.faultWord = 0#16 ∧ s.faultAddr = 0#16) ∧
  (s.faulted = true → s.started = true)

/-! ### The ends of a run (R123) -/

/-- A fetch at PC raises nothing (R53). -/
def Fetchable (s : State) : Prop := s.pc.toNat % 2 = 0 ∧ s.pc.toNat ≤ 0xFFE

/-- The bad end: FAULTED (R123). -/
def BadEnd (s : State) : Prop := s.faulted = true

/-- The word at PC: the byte at PC is the high part, the byte after it the low part (R9, R53). -/
def fetchedWord (s : State) : Word :=
  BitVec.ofNat 16 ((s.mem.read s.pc.toNat).toNat * 256 + (s.mem.read (s.pc.toNat + 1)).toNat)

/-- The idle end: not faulted, and the word at PC is the self-jump 1nnn with nnn = PC (R123). -/
def IdleEnd (s : State) : Prop :=
  s.faulted = false ∧ Fetchable s ∧ (fetchedWord s).toNat = 0x1000 + s.pc.toNat

/-! ### Which instruction does what (R113, R322, R329) -/

/-- The codes that an instruction may raise (R322). -/
def ownFaults : Instr → List FaultCode
  | .call _ => [.stackOverflow]
  | .ret => [.stackUnderflow]
  | .drw _ _ _ | .ldVxMem _ => [.dataOutOfBounds]
  | .ldB _ | .ldMemVx _ => [.dataOutOfBounds, .protectedWrite]
  | .skp _ | .sknp _ => [.keyIndexOutOfRange]
  | .cls | .jp _ | .seImm _ _ | .sneImm _ _ | .seReg _ _ _ | .ldImm _ _ | .addImm _ _ | .ldReg _ _ | .orReg _ _
  | .andReg _ _ | .xorReg _ _ | .addReg _ _ | .sub _ _ | .shr _ _ | .subn _ _ | .shl _ _ | .sneReg _ _ _ | .ldI _
  | .jpV0 _ | .rnd _ _ | .ldVxDt _ | .ldVxK _ | .ldDtVx _ | .ldStVx _ | .addI _ | .ldF _ => []

/-- pc_next of an instruction that raises no fault (R113). -/
def pcNext (s : State) : Instr → Word
  | .seImm x kk => if s.reg x = kk then s.pc + 4#16 else s.pc + 2#16
  | .sneImm x kk => if s.reg x = kk then s.pc + 2#16 else s.pc + 4#16
  | .seReg x y _ => if s.reg x = s.reg y then s.pc + 4#16 else s.pc + 2#16
  | .sneReg x y _ => if s.reg x = s.reg y then s.pc + 2#16 else s.pc + 4#16
  | .skp x => if ∃ k : Fin 16, k.val = (s.reg x).toNat ∧ s.keys[k.val] = true then s.pc + 4#16 else s.pc + 2#16
  | .sknp x => if ∃ k : Fin 16, k.val = (s.reg x).toNat ∧ s.keys[k.val] = false then s.pc + 4#16 else s.pc + 2#16
  | .jp nnn | .call nnn => BitVec.ofNat 16 nnn.toNat
  | .ret => s.stack.toList.getD (s.sp.val - 1) 0#16
  | .jpV0 nnn => BitVec.ofNat 16 (nnn.toNat + (s.reg 0).toNat)
  | .ldVxK _ => if ∃ k : Fin 16, s.keys[k.val] = true then s.pc + 2#16 else s.pc
  | .cls | .ldImm _ _ | .addImm _ _ | .ldReg _ _ | .orReg _ _ | .andReg _ _ | .xorReg _ _ | .addReg _ _ | .sub _ _
  | .shr _ _ | .subn _ _ | .shl _ _ | .ldI _ | .rnd _ _ | .drw _ _ _ | .ldVxDt _ | .ldDtVx _ | .ldStVx _ | .addI _
  | .ldF _ | .ldB _ | .ldMemVx _ | .ldVxMem _ => s.pc + 2#16

/-- The instructions that write I (R25). -/
def writesIndex : Instr → Bool
  | .ldI _ | .addI _ | .ldF _ | .ldMemVx _ | .ldVxMem _ => true
  | .cls | .ret | .jp _ | .call _ | .seImm _ _ | .sneImm _ _ | .seReg _ _ _ | .ldImm _ _ | .addImm _ _ | .ldReg _ _
  | .orReg _ _ | .andReg _ _ | .xorReg _ _ | .addReg _ _ | .sub _ _ | .shr _ _ | .subn _ _ | .shl _ _ | .sneReg _ _ _
  | .jpV0 _ | .rnd _ _ | .drw _ _ _ | .skp _ | .sknp _ | .ldVxDt _ | .ldVxK _ | .ldDtVx _ | .ldStVx _ | .ldB _ => false

/-! ### What a program cannot see (R28, R36) -/

/-- The state with STARTED, FB_DIRTY and ST, which no instruction reads, set to one value each. -/
def hideHostState (s : State) : State := { s with started := false, fbDirty := false, st := 0#8 }

end Sys2Proof.Machine
end

