-- ==== Sys2Proof/Certificates/Slice0/Obligations.lean ====
section
/-! DEFINITION. The statements for the provers. Each docstring names the rules of spec/ it formalises. -/

namespace Sys2Proof.Spec

open Sys2Proof.Machine

/-- The word of format NNN by its number: category, then the 12 bits of nnn (R82). -/
def patNNN (cat : Nat) (nnn : Addr12) : Word := BitVec.ofNat 16 (cat * 4096 + nnn.toNat)

/-- The word of formats XKK and XS by its number (R82). -/
def patXKK (cat : Nat) (x : Reg) (kk : Byte) : Word := BitVec.ofNat 16 (cat * 4096 + x.val * 256 + kk.toNat)

/-- The word of formats XY, XYS and XYN by its number (R82). -/
def patXYN (cat : Nat) (x y : Reg) (n : Nibble) : Word :=
  BitVec.ofNat 16 (cat * 4096 + x.val * 256 + y.val * 16 + n.toNat)

/-- The illegal words, by R86's table. -/
def IllegalWord (w : Word) : Prop :=
  (w.toNat / 4096 = 0x0 ∧ w.toNat ≠ 0x00E0 ∧ w.toNat ≠ 0x00EE) ∨
  (w.toNat / 4096 = 0x8 ∧ w.toNat % 16 ∈ [0x8, 0x9, 0xA, 0xB, 0xC, 0xD, 0xF]) ∨
  (w.toNat / 4096 = 0xE ∧ w.toNat % 256 ∉ [0x9E, 0xA1]) ∨
  (w.toNat / 4096 = 0xF ∧ w.toNat % 256 ∉ [0x07, 0x0A, 0x15, 0x18, 0x1E, 0x29, 0x33, 0x55, 0x65])

/-- [p] of R153: 1 when p holds and 0 otherwise. -/
def ind (p : Prop) [Decidable p] : Byte := if p then 1#8 else 0#8

/-- Some set bit of the sprite of Dxyn falls on column c, row q (R263): bit 7 - j of row r, with r < n and j < 8, goes to
column (V[x] mod 64 + j) mod 64 and row (V[y] mod 32 + r) mod 32. -/
def SpriteOn (s : State) (x y : Reg) (n : Nibble) (c : Fin 64) (q : Fin 32) : Prop :=
  ∃ r < n.toNat, ∃ j < 8, (s.mem.read (s.index.toNat + r)).getLsbD (7 - j) = true ∧
    c.val = ((s.reg x).toNat % 64 + j) % 64 ∧ q.val = ((s.reg y).toNat % 32 + r) % 32

/-- Every sprite byte of a Dxyn lies in memory (R51, R263). -/
def SpriteInMemory (s : State) (n : Nibble) : Prop := n = 0#4 ∨ s.index.toNat + n.toNat ≤ 0x1000

/-- The lowest address from I on that lies above 0xFFF (R30): I itself when I > 0xFFF, and 0x1000 otherwise. -/
def firstOutside (s : State) : Word := if 0xFFF < s.index.toNat then s.index else 0x1000#16

/-- The byte at address a after Fx55 has stored V[0] to V[x] in state s (R224): a stored register inside the block, and the
byte that stood there outside it. -/
def byteAfterBlock (s : State) (x : Reg) (a : Nat) : Byte :=
  if s.index.toNat ≤ a ∧ a ≤ s.index.toNat + x.val then s.reg (Fin.ofNat 16 (a - s.index.toNat)) else s.mem.read a

/-- The byte at address a after Fx33 has stored the digits of V[x] in state s (R223). -/
def byteAfterDigits (s : State) (x : Reg) (a : Nat) : Byte :=
  if a = s.index.toNat then BitVec.ofNat 8 ((s.reg x).toNat / 100)
  else if a = s.index.toNat + 1 then BitVec.ofNat 8 ((s.reg x).toNat / 10 % 10)
  else if a = s.index.toNat + 2 then BitVec.ofNat 8 ((s.reg x).toNat % 10)
  else s.mem.read a

/-- A step at u fetches and runs the word w: the instruction it decodes to, or the fault of an illegal word with that word
as FAULT_WORD (R53, R112). -/
def RunsWord (w : Word) (u : State) : Prop :=
  (∃ i, decode w = .ok i ∧ step u = exec i u) ∨
  (∃ e t, decode w = .error e ∧ step u = .next t ∧ FaultTaken .illegalOpcode u.pc w u t)

/-- The load events of a program, byte i at 0x200 + i (R119, R362). -/
def loadsFrom : Nat → List Byte → List Event
  | _, [] => []
  | a, b :: rest => .load (BitVec.ofNat 12 a) b :: loadsFrom (a + 1) rest

end Sys2Proof.Spec

open Sys2Proof Sys2Proof.Machine Sys2Proof.Spec

/-! ### Decoder and encoder -/

/-- Decoding the word of any instruction gives the instruction back, with every operand at every value (R80 to R84).
Every Instr is well formed: the operand types hold exactly what the fields hold. -/
def Obligations.DecodeOfEncode : Prop := ∀ i : Instr, decode (encode i) = .ok i

/-- A word that decodes is the word of the instruction it decodes to: no bit of it is lost (R81 to R87). -/
def Obligations.EncodeOfDecode : Prop := ∀ (w : Word) (i : Instr), decode w = .ok i → encode i = w

/-- R84: the decoder takes every word of the opcode map to its instruction and rejects every other word. -/
def Obligations.DecoderFollowsOpcodeMap : Prop :=
  decode 0x00E0#16 = .ok .cls ∧ decode 0x00EE#16 = .ok .ret ∧
  (∀ nnn : Addr12,
    decode (patNNN 0x1 nnn) = .ok (.jp nnn) ∧ decode (patNNN 0x2 nnn) = .ok (.call nnn) ∧
    decode (patNNN 0xA nnn) = .ok (.ldI nnn) ∧ decode (patNNN 0xB nnn) = .ok (.jpV0 nnn)) ∧
  (∀ (x : Reg) (kk : Byte),
    decode (patXKK 0x3 x kk) = .ok (.seImm x kk) ∧ decode (patXKK 0x4 x kk) = .ok (.sneImm x kk) ∧
    decode (patXKK 0x6 x kk) = .ok (.ldImm x kk) ∧ decode (patXKK 0x7 x kk) = .ok (.addImm x kk) ∧
    decode (patXKK 0xC x kk) = .ok (.rnd x kk)) ∧
  (∀ (x y : Reg) (n : Nibble),
    decode (patXYN 0x5 x y n) = .ok (.seReg x y n) ∧ decode (patXYN 0x9 x y n) = .ok (.sneReg x y n) ∧
    decode (patXYN 0xD x y n) = .ok (.drw x y n)) ∧
  (∀ x y : Reg,
    decode (patXYN 0x8 x y 0x0#4) = .ok (.ldReg x y) ∧ decode (patXYN 0x8 x y 0x1#4) = .ok (.orReg x y) ∧
    decode (patXYN 0x8 x y 0x2#4) = .ok (.andReg x y) ∧ decode (patXYN 0x8 x y 0x3#4) = .ok (.xorReg x y) ∧
    decode (patXYN 0x8 x y 0x4#4) = .ok (.addReg x y) ∧ decode (patXYN 0x8 x y 0x5#4) = .ok (.sub x y) ∧
    decode (patXYN 0x8 x y 0x6#4) = .ok (.shr x y) ∧ decode (patXYN 0x8 x y 0x7#4) = .ok (.subn x y) ∧
    decode (patXYN 0x8 x y 0xE#4) = .ok (.shl x y)) ∧
  (∀ x : Reg,
    decode (patXKK 0xE x 0x9E#8) = .ok (.skp x) ∧ decode (patXKK 0xE x 0xA1#8) = .ok (.sknp x) ∧
    decode (patXKK 0xF x 0x07#8) = .ok (.ldVxDt x) ∧ decode (patXKK 0xF x 0x0A#8) = .ok (.ldVxK x) ∧
    decode (patXKK 0xF x 0x15#8) = .ok (.ldDtVx x) ∧ decode (patXKK 0xF x 0x18#8) = .ok (.ldStVx x) ∧
    decode (patXKK 0xF x 0x1E#8) = .ok (.addI x) ∧ decode (patXKK 0xF x 0x29#8) = .ok (.ldF x) ∧
    decode (patXKK 0xF x 0x33#8) = .ok (.ldB x) ∧ decode (patXKK 0xF x 0x55#8) = .ok (.ldMemVx x) ∧
    decode (patXKK 0xF x 0x65#8) = .ok (.ldVxMem x)) ∧
  (∀ w : Word, IllegalWord w → ∃ e, decode w = .error e)

/-- R86: the decoder rejects exactly the words of the table of illegal words. -/
def Obligations.RejectedWordsAreTheIllegalOnes : Prop :=
  ∀ w : Word, (∃ e, decode w = .error e) ↔ IllegalWord w

/-- Worked words of the spec, one a family, decode to the instructions they stand for (examples of R141, R147, R182,
R220, R263, R87 and R293). -/
def Obligations.WorkedWordsDecode : Prop :=
  decode 0x6A2F#16 = .ok (.ldImm 0xA 0x2F#8) ∧ decode 0x8014#16 = .ok (.addReg 0x0 0x1) ∧
  decode 0x1234#16 = .ok (.jp 0x234#12) ∧ decode 0xA300#16 = .ok (.ldI 0x300#12) ∧
  decode 0xD345#16 = .ok (.drw 0x3 0x4 0x5#4) ∧ decode 0x5123#16 = .ok (.seReg 0x1 0x2 0x3#4) ∧
  decode 0xE09E#16 = .ok (.skp 0x0)

/-! ### The engine cycle and faults -/

/-- A step runs the decoded instruction (R112): outside FAULTED, at a PC that can be fetched from, where the bytes at PC
decode to i, the step is exec of i at that state, with nothing around it. -/
def Obligations.StepRunsDecodedInstruction : Prop :=
  ∀ (s : State) (i : Instr), s.faulted = false → Fetchable s → decode (fetchedWord s) = .ok i → step s = exec i s

/-- R53: a fetch from an odd PC faults FETCH_MISALIGNED, one from an even PC above 0xFFE faults FETCH_OUT_OF_BOUNDS, both
at PC with no word, and any other fetch returns the word whose high byte is M[PC]: it is executed, or recorded as an
illegal word. -/
def Obligations.FetchWordPrimitive : Prop :=
  ∀ s : State, s.faulted = false →
    (s.pc.toNat % 2 = 1 → ∃ t, step s = .next t ∧ FaultTaken .fetchMisaligned s.pc 0x0000#16 s t) ∧
    (s.pc.toNat % 2 = 0 → 0xFFE < s.pc.toNat →
      ∃ t, step s = .next t ∧ FaultTaken .fetchOutOfBounds s.pc 0x0000#16 s t) ∧
    (s.pc.toNat % 2 = 0 → s.pc.toNat ≤ 0xFFE → RunsWord (fetchedWord s) s)

/-- R86: executing an illegal word raises ILLEGAL_OPCODE, and nothing else happens. -/
def Obligations.IllegalWordFaults : Prop :=
  ∀ s : State, s.faulted = false → Fetchable s → IllegalWord (fetchedWord s) →
    ∃ t, step s = .next t ∧ FaultTaken .illegalOpcode s.pc (fetchedWord s) s t

/-- R116: in FAULTED every event but reset leaves the state unchanged, and reset leaves FAULTED. -/
def Obligations.FaultedStateAbsorbs : Prop :=
  ∀ s : State, s.faulted = true →
    (∀ e : Event, e ≠ .reset → s.onEvent e = .next s) ∧ ∃ t, s.onEvent .reset = .next t ∧ t.faulted = false

/-- R115 and R324: a step that raises a fault commits none of its instruction's writes. The state is the state before the
step plus the record: STARTED and FAULTED set, a code other than NONE, PC as FAULT_PC, and as FAULT_WORD the fetched word,
or 0x0000 for the two fetch codes. -/
def Obligations.FaultsArePrecise : Prop :=
  ∀ s t : State, s.faulted = false → step s = .next t → t.faulted = true →
    ∃ code addr, code ≠ .none ∧
      FaultTaken code addr (if code = .fetchMisaligned ∨ code = .fetchOutOfBounds then 0x0000#16 else fetchedWord s) s t

/-- R322: an instruction raises only its own codes, and a step only codes 1, 2, 3 or a code of the instruction at PC. -/
def Obligations.FaultCausesByInstruction : Prop :=
  (∀ (i : Instr) (s t : State), s.faulted = false → exec i s = .next t → t.faulted = true → t.faultCode ∈ ownFaults i) ∧
  (∀ s t : State, s.faulted = false → step s = .next t → t.faulted = true →
    t.faultCode ∈ [.fetchMisaligned, .fetchOutOfBounds, .illegalOpcode] ∨
    ∃ i, decode (fetchedWord s) = .ok i ∧ t.faultCode ∈ ownFaults i)

/-- R113: the PC-advance law, for every instruction that raises no fault. -/
def Obligations.PcAdvanceLaw : Prop :=
  ∀ (i : Instr) (s t : State), s.faulted = false → exec i s = .next t → t.faulted = false → t.pc = pcNext s i

/-- Every event is answered with a next state: the machine never stops (R110, R112; every error is a taken fault, R320). -/
def Obligations.EveryEventIsAnswered : Prop := ∀ (s : State) (e : Event), ∃ t, s.onEvent e = .next t

/-- R29: a step sets STARTED, a step that faults included. -/
def Obligations.StepSetsStarted : Prop :=
  ∀ s t : State, s.faulted = false → step s = .next t → t.started = true

/-- R25 to R28, R31 to R33 and R329: which instructions write I, the stack, the timers, the framebuffer, memory and the
keys (none). Every other instruction leaves them, whether it completes or faults. -/
def Obligations.OnlyTheirWritersChangeSpecialState : Prop :=
  ∀ (i : Instr) (s t : State), exec i s = .next t →
    (writesIndex i = false → t.index = s.index) ∧
    ((∀ nnn, i ≠ .call nnn) → i ≠ .ret → t.sp = s.sp ∧ t.stack = s.stack) ∧
    ((∀ x, i ≠ .ldDtVx x) → t.dt = s.dt) ∧
    ((∀ x, i ≠ .ldStVx x) → t.st = s.st) ∧
    (i ≠ .cls → (∀ x y n, i ≠ .drw x y n) → t.fb = s.fb ∧ t.fbDirty = s.fbDirty) ∧
    ((∀ x, i ≠ .ldB x) → (∀ x, i ≠ .ldMemVx x) → ∀ a, t.mem.read a = s.mem.read a) ∧
    t.keys = s.keys

/-- R28 and R36: STARTED, FB_DIRTY and ST cannot be observed by a program. Two states that differ in them alone, given the
same random byte, step to states that differ in them alone. That both are given the same byte is the model's: the two states
have equal `draws`, and states with equal `draws` draw the same byte (log 1). -/
def Obligations.HostStateIsUnobservable : Prop :=
  ∀ s₁ s₂ t₁ t₂ : State, hideHostState s₁ = hideHostState s₂ → step s₁ = .next t₁ → step s₂ = .next t₂ →
    hideHostState t₁ = hideHostState t₂

/-- R52 and R57: no event but reset changes a byte of the font, whatever the font holds. -/
def Obligations.FontIsImmutable : Prop :=
  ∀ (s t : State) (e : Event), e ≠ .reset → s.onEvent e = .next t → ∀ a < 0x050, t.mem.read a = s.mem.read a

/-- R7: FONT is an argument of the machine. No event changes it, reset included, and every event keeps the font block equal
to it, whatever it is. -/
def Obligations.FontStaysTheArgument : Prop :=
  ∀ (s t : State) (e : Event), s.onEvent e = .next t → t.mem.font = s.mem.font ∧ (FontInv s → FontInv t)

/-! ### Invariants -/

/-- Every step keeps memory in canonical form (the model's representation of R34 and R50, log 10). -/
def Obligations.StepKeepsMemoryCanonical : Prop := ∀ s t : State, MemoryInv s → step s = .next t → MemoryInv t

/-- Every step keeps PC at most 0x10FE (R23) and the stack entries in use even and at most 0x1000 (R181, R183). -/
def Obligations.StepKeepsPcAndStackInRange : Prop := ∀ s t : State, PcInv s → step s = .next t → PcInv t

/-- Every step keeps the fault record in agreement with STATUS (R29, R30, R324). -/
def Obligations.StepKeepsFaultRecord : Prop := ∀ s t : State, RecordInv s → step s = .next t → RecordInv t

/-- The host's other events keep the three invariants (R117 to R120, R360). -/
def Obligations.HostEventsKeepInvariants : Prop :=
  ∀ (s t : State) (e : Event), e ≠ .step → MemoryInv s → PcInv s → RecordInv s → s.onEvent e = .next t →
    MemoryInv t ∧ PcInv t ∧ RecordInv t

/-- The three invariants, and that the font block holds FONT, hold right after reset, for every FONT. -/
def Obligations.ResetMeetsInvariants : Prop :=
  ∀ f : Font, MemoryInv (State.resetWith f) ∧ PcInv (State.resetWith f) ∧ RecordInv (State.resetWith f) ∧
    FontInv (State.resetWith f)

/-- R7 and R58: a machine can be given any FONT, which then stands at 0x000 to 0x04F after reset, with 0x00 from 0x050 on.
The reset state differs in nothing else, and State.reset is the one with the default of FONT, which is PRESUMED (log 3): its
bytes are not stated here. -/
def Obligations.ResetTakesAnyFont : Prop :=
  (∀ f : Font, (State.resetWith f).mem.font = f ∧ (∀ a < 0x050, f[a]? = some ((State.resetWith f).mem.read a)) ∧
    (∀ a, 0x050 ≤ a → (State.resetWith f).mem.read a = 0x00#8) ∧
    State.resetWith f = { State.reset with mem := (State.resetWith f).mem }) ∧
  State.reset = State.resetWith defaultFont

/-! ### ALU -/

/-- R141 and R142: 6xkk loads kk, 7xkk adds kk modulo 256 with no flag. Nothing else changes; x = F writes VF. -/
def Obligations.ImmediateOperations : Prop :=
  ∀ (x : Reg) (kk : Byte) (s : State),
    (decode (patXKK 0x6 x kk) = .ok (.ldImm x kk) ∧
      ∃ t, exec (.ldImm x kk) s = .next t ∧ t.reg x = kk ∧ Completed { regs := [x] } (s.pc + 2#16) s t) ∧
    (decode (patXKK 0x7 x kk) = .ok (.addImm x kk) ∧
      ∃ t, exec (.addImm x kk) s = .next t ∧ (t.reg x).toNat = ((s.reg x).toNat + kk.toNat) % 256 ∧
        Completed { regs := [x] } (s.pc + 2#16) s t)

/-- R143 to R146: 8xy0 copies, 8xy1, 8xy2 and 8xy3 are OR, AND and XOR bit by bit. VF is not reset; x = F writes VF. -/
def Obligations.MovesAndLogic : Prop :=
  ∀ (x y : Reg) (s : State),
    (decode (patXYN 0x8 x y 0x0#4) = .ok (.ldReg x y) ∧
      ∃ t, exec (.ldReg x y) s = .next t ∧ t.reg x = s.reg y ∧ Completed { regs := [x] } (s.pc + 2#16) s t) ∧
    (decode (patXYN 0x8 x y 0x1#4) = .ok (.orReg x y) ∧
      ∃ t, exec (.orReg x y) s = .next t ∧
        (∀ j, (t.reg x).getLsbD j = ((s.reg x).getLsbD j || (s.reg y).getLsbD j)) ∧
        Completed { regs := [x] } (s.pc + 2#16) s t) ∧
    (decode (patXYN 0x8 x y 0x2#4) = .ok (.andReg x y) ∧
      ∃ t, exec (.andReg x y) s = .next t ∧
        (∀ j, (t.reg x).getLsbD j = ((s.reg x).getLsbD j && (s.reg y).getLsbD j)) ∧
        Completed { regs := [x] } (s.pc + 2#16) s t) ∧
    (decode (patXYN 0x8 x y 0x3#4) = .ok (.xorReg x y) ∧
      ∃ t, exec (.xorReg x y) s = .next t ∧
        (∀ j, (t.reg x).getLsbD j = ((s.reg x).getLsbD j ^^ (s.reg y).getLsbD j)) ∧
        Completed { regs := [x] } (s.pc + 2#16) s t)

/-- R147: 8xy4. The exact sum is formed first; V[x] ends with it modulo 256, and VF with the carry unless x = F. -/
def Obligations.AddRegisters : Prop :=
  ∀ (x y : Reg) (s : State),
    decode (patXYN 0x8 x y 0x4#4) = .ok (.addReg x y) ∧
    ∃ t, exec (.addReg x y) s = .next t ∧
      (t.reg x).toNat = ((s.reg x).toNat + (s.reg y).toNat) % 256 ∧
      (x ≠ vf → t.reg vf = ind ((s.reg x).toNat + (s.reg y).toNat > 255)) ∧
      Completed { regs := [x, vf] } (s.pc + 2#16) s t

/-- R148: 8xy5. VF receives the not-borrow g of V[x] - V[y]; then V[x] receives V[x] - V[y] modulo 256, where an operand
that is VF reads g. -/
def Obligations.SubtractRegisters : Prop :=
  ∀ (x y : Reg) (s : State),
    decode (patXYN 0x8 x y 0x5#4) = .ok (.sub x y) ∧
    ∃ t g a b, exec (.sub x y) s = .next t ∧
      g = ind ((s.reg x).toNat ≥ (s.reg y).toNat) ∧
      a = (if x = vf then g else s.reg x) ∧ b = (if y = vf then g else s.reg y) ∧
      (t.reg x).toNat = (a.toNat + 256 - b.toNat) % 256 ∧
      (x ≠ vf → t.reg vf = g) ∧
      Completed { regs := [x, vf] } (s.pc + 2#16) s t

/-- R149: 8xy6. VF receives bit 0 of V[y]; then V[x] receives V[y] >> 1, where y = F reads that bit. -/
def Obligations.ShiftRight : Prop :=
  ∀ (x y : Reg) (s : State),
    decode (patXYN 0x8 x y 0x6#4) = .ok (.shr x y) ∧
    ∃ t g b, exec (.shr x y) s = .next t ∧
      g = ind ((s.reg y).toNat % 2 = 1) ∧ b = (if y = vf then g else s.reg y) ∧
      (t.reg x).toNat = b.toNat / 2 ∧
      (x ≠ vf → t.reg vf = g) ∧
      Completed { regs := [x, vf] } (s.pc + 2#16) s t

/-- R150: 8xy7. VF receives the not-borrow g of V[y] - V[x]; then V[x] receives V[y] - V[x] modulo 256, where an operand
that is VF reads g. -/
def Obligations.SubtractReversed : Prop :=
  ∀ (x y : Reg) (s : State),
    decode (patXYN 0x8 x y 0x7#4) = .ok (.subn x y) ∧
    ∃ t g a b, exec (.subn x y) s = .next t ∧
      g = ind ((s.reg y).toNat ≥ (s.reg x).toNat) ∧
      a = (if x = vf then g else s.reg x) ∧ b = (if y = vf then g else s.reg y) ∧
      (t.reg x).toNat = (b.toNat + 256 - a.toNat) % 256 ∧
      (x ≠ vf → t.reg vf = g) ∧
      Completed { regs := [x, vf] } (s.pc + 2#16) s t

/-- R151: 8xyE. VF receives bit 7 of V[y]; then V[x] receives V[y] * 2 modulo 256, where y = F reads that bit. -/
def Obligations.ShiftLeft : Prop :=
  ∀ (x y : Reg) (s : State),
    decode (patXYN 0x8 x y 0xE#4) = .ok (.shl x y) ∧
    ∃ t g b, exec (.shl x y) s = .next t ∧
      g = ind ((s.reg y).toNat ≥ 128) ∧ b = (if y = vf then g else s.reg y) ∧
      (t.reg x).toNat = b.toNat * 2 % 256 ∧
      (x ≠ vf → t.reg vf = g) ∧
      Completed { regs := [x, vf] } (s.pc + 2#16) s t

/-- R153: the outcome of every flag-writing category-8 instruction for each way x and y can meet 0xF, as the table gives
it, and no register but V[x] and VF changes. Here a = V[x], b = V[y] and f = VF before the step. -/
def Obligations.VfOutcomeTable : Prop :=
  ∀ (x y : Reg) (s : State),
    (∃ t, exec (.addReg x y) s = .next t ∧ (∀ r, r ∉ [x, vf] → t.reg r = s.reg r) ∧
      (x ≠ vf → y ≠ vf → x ≠ y → t.reg vf = ind ((s.reg x).toNat + (s.reg y).toNat > 255) ∧
        t.reg x = s.reg x + s.reg y) ∧
      (x = y → x ≠ vf → t.reg vf = ind ((s.reg x).toNat ≥ 128) ∧ t.reg x = s.reg x + s.reg x) ∧
      (x ≠ vf → y = vf → t.reg vf = ind ((s.reg x).toNat + (s.reg vf).toNat > 255) ∧
        t.reg x = s.reg x + s.reg vf) ∧
      (x = vf → y ≠ vf → t.reg vf = s.reg vf + s.reg y) ∧
      (x = vf → y = vf → t.reg vf = s.reg vf + s.reg vf)) ∧
    (∃ t, exec (.sub x y) s = .next t ∧ (∀ r, r ∉ [x, vf] → t.reg r = s.reg r) ∧
      (x ≠ vf → y ≠ vf → x ≠ y → t.reg vf = ind ((s.reg x).toNat ≥ (s.reg y).toNat) ∧
        t.reg x = s.reg x - s.reg y) ∧
      (x = y → x ≠ vf → t.reg vf = 1#8 ∧ t.reg x = 0#8) ∧
      (x ≠ vf → y = vf → t.reg vf = ind ((s.reg x).toNat ≥ (s.reg vf).toNat) ∧
        t.reg x = s.reg x - ind ((s.reg x).toNat ≥ (s.reg vf).toNat)) ∧
      (x = vf → y ≠ vf → t.reg vf = ind ((s.reg vf).toNat ≥ (s.reg y).toNat) - s.reg y) ∧
      (x = vf → y = vf → t.reg vf = 0#8)) ∧
    (∃ t, exec (.shr x y) s = .next t ∧ (∀ r, r ∉ [x, vf] → t.reg r = s.reg r) ∧
      (x ≠ vf → y ≠ vf → x ≠ y → t.reg vf = ind ((s.reg y).getLsbD 0 = true) ∧ t.reg x = s.reg y >>> 1) ∧
      (x = y → x ≠ vf → t.reg vf = ind ((s.reg x).getLsbD 0 = true) ∧ t.reg x = s.reg x >>> 1) ∧
      (x ≠ vf → y = vf → t.reg vf = ind ((s.reg vf).getLsbD 0 = true) ∧ t.reg x = 0#8) ∧
      (x = vf → y ≠ vf → t.reg vf = s.reg y >>> 1) ∧
      (x = vf → y = vf → t.reg vf = 0#8)) ∧
    (∃ t, exec (.subn x y) s = .next t ∧ (∀ r, r ∉ [x, vf] → t.reg r = s.reg r) ∧
      (x ≠ vf → y ≠ vf → x ≠ y → t.reg vf = ind ((s.reg y).toNat ≥ (s.reg x).toNat) ∧
        t.reg x = s.reg y - s.reg x) ∧
      (x = y → x ≠ vf → t.reg vf = 1#8 ∧ t.reg x = 0#8) ∧
      (x ≠ vf → y = vf → t.reg vf = ind ((s.reg vf).toNat ≥ (s.reg x).toNat) ∧
        t.reg x = ind ((s.reg vf).toNat ≥ (s.reg x).toNat) - s.reg x) ∧
      (x = vf → y ≠ vf → t.reg vf = s.reg y - ind ((s.reg y).toNat ≥ (s.reg vf).toNat)) ∧
      (x = vf → y = vf → t.reg vf = 0#8)) ∧
    (∃ t, exec (.shl x y) s = .next t ∧ (∀ r, r ∉ [x, vf] → t.reg r = s.reg r) ∧
      (x ≠ vf → y ≠ vf → x ≠ y → t.reg vf = ind ((s.reg y).getLsbD 7 = true) ∧ t.reg x = s.reg y + s.reg y) ∧
      (x = y → x ≠ vf → t.reg vf = ind ((s.reg x).getLsbD 7 = true) ∧ t.reg x = s.reg x + s.reg x) ∧
      (x ≠ vf → y = vf → t.reg vf = ind ((s.reg vf).getLsbD 7 = true) ∧
        t.reg x = ind ((s.reg vf).getLsbD 7 = true) + ind ((s.reg vf).getLsbD 7 = true)) ∧
      (x = vf → y ≠ vf → t.reg vf = s.reg y + s.reg y) ∧
      (x = vf → y = vf → t.reg vf = ind ((s.reg vf).getLsbD 7 = true) + ind ((s.reg vf).getLsbD 7 = true)))

/-- R152: Cxkk draws a fresh byte and writes it AND kk to V[x]. The byte is the free value Config.rnd (log 1), which
nothing constrains, so this holds for every draw; the counter of draws is the model's own (log 2). -/
def Obligations.RandomByteIsMasked : Prop :=
  ∀ (x : Reg) (kk : Byte) (s : State),
    decode (patXKK 0xC x kk) = .ok (.rnd x kk) ∧
    ∃ t, exec (.rnd x kk) s = .next t ∧
      (∀ j, (t.reg x).getLsbD j = ((Config.rnd s.draws).getLsbD j && kk.getLsbD j)) ∧
      t.draws = s.draws + 1 ∧
      Completed { regs := [x], draws := true } (s.pc + 2#16) s t

/-! ### Control flow -/

/-- R181: 00EE. At SP = 0 it faults STACK_UNDERFLOW before any change; otherwise SP falls by one and PC receives the
entry, which keeps its value. -/
def Obligations.ReturnPopsTheStack : Prop :=
  decode 0x00EE#16 = .ok .ret ∧
  ∀ s : State,
    (s.sp.val = 0 → ∃ t, exec .ret s = .next t ∧ FaultTaken .stackUnderflow 0#16 0x00EE#16 s t) ∧
    (0 < s.sp.val → ∃ t w, exec .ret s = .next t ∧ t.sp.val = s.sp.val - 1 ∧ s.stack[s.sp.val - 1]? = some w ∧
      t.stack = s.stack ∧ Completed { stack := true } w s t)

/-- R182 and R188: 1nnn sets PC to nnn, and Bnnn to nnn + V[0], which never wraps. Targets are not checked. -/
def Obligations.Jumps : Prop :=
  ∀ (nnn : Addr12) (s : State),
    (decode (patNNN 0x1 nnn) = .ok (.jp nnn) ∧
      ∃ t, exec (.jp nnn) s = .next t ∧ t.pc.toNat = nnn.toNat ∧ Completed {} t.pc s t) ∧
    (decode (patNNN 0xB nnn) = .ok (.jpV0 nnn) ∧
      ∃ t, exec (.jpV0 nnn) s = .next t ∧ t.pc.toNat = nnn.toNat + (s.reg 0).toNat ∧ Completed {} t.pc s t)

/-- R183: 2nnn. At SP = 16 it faults STACK_OVERFLOW before any change; otherwise S[SP] receives PC + 2, SP rises by one
and PC receives nnn. No other stack entry changes. -/
def Obligations.CallPushesReturnAddress : Prop :=
  ∀ (nnn : Addr12) (s : State),
    decode (patNNN 0x2 nnn) = .ok (.call nnn) ∧
    (s.sp.val = 16 →
      ∃ t, exec (.call nnn) s = .next t ∧ FaultTaken .stackOverflow 16#16 (patNNN 0x2 nnn) s t) ∧
    (s.sp.val < 16 →
      ∃ t, exec (.call nnn) s = .next t ∧ t.sp.val = s.sp.val + 1 ∧ t.stack[s.sp.val]? = some (s.pc + 2#16) ∧
        (∀ k < 16, k ≠ s.sp.val → t.stack[k]? = s.stack[k]?) ∧ t.pc.toNat = nnn.toNat ∧
        Completed { stack := true } t.pc s t)

/-- R181 and R183 (source property W8): after a call, a return at the same stack sets PC to the address following the
call and SP to its value before it, whatever else has happened between. -/
def Obligations.ReturnUndoesCall : Prop :=
  ∀ (nnn : Addr12) (s t u : State), s.sp.val < 16 → exec (.call nnn) s = .next t → u.sp = t.sp → u.stack = t.stack →
    ∃ r, exec .ret u = .next r ∧ r.pc = s.pc + 2#16 ∧ r.sp = s.sp

/-- R184 to R187: 3xkk and 5xyn skip when the operands are equal, 4xkk and 9xyn when they differ; n is not examined. A
skip that is taken advances PC by 4, one that is not by 2, and nothing else changes. -/
def Obligations.ConditionalSkips : Prop :=
  ∀ (x y : Reg) (kk : Byte) (n : Nibble) (s : State),
    (decode (patXKK 0x3 x kk) = .ok (.seImm x kk) ∧
      ∃ t, exec (.seImm x kk) s = .next t ∧
        Completed {} (if s.reg x = kk then s.pc + 4#16 else s.pc + 2#16) s t) ∧
    (decode (patXKK 0x4 x kk) = .ok (.sneImm x kk) ∧
      ∃ t, exec (.sneImm x kk) s = .next t ∧
        Completed {} (if s.reg x = kk then s.pc + 2#16 else s.pc + 4#16) s t) ∧
    (decode (patXYN 0x5 x y n) = .ok (.seReg x y n) ∧
      ∃ t, exec (.seReg x y n) s = .next t ∧
        Completed {} (if s.reg x = s.reg y then s.pc + 4#16 else s.pc + 2#16) s t) ∧
    (decode (patXYN 0x9 x y n) = .ok (.sneReg x y n) ∧
      ∃ t, exec (.sneReg x y n) s = .next t ∧
        Completed {} (if s.reg x = s.reg y then s.pc + 2#16 else s.pc + 4#16) s t)

/-! ### Index register and memory -/

/-- R220 to R222: Annn sets I to nnn, Fx1E adds V[x] to I modulo 2^16 with no flag, Fx29 sets I to V[x] * 5, V[x] not
masked. -/
def Obligations.IndexRegisterOperations : Prop :=
  ∀ (nnn : Addr12) (x : Reg) (s : State),
    (decode (patNNN 0xA nnn) = .ok (.ldI nnn) ∧
      ∃ t, exec (.ldI nnn) s = .next t ∧ t.index.toNat = nnn.toNat ∧
        Completed { index := true } (s.pc + 2#16) s t) ∧
    (decode (patXKK 0xF x 0x1E#8) = .ok (.addI x) ∧
      ∃ t, exec (.addI x) s = .next t ∧ t.index.toNat = (s.index.toNat + (s.reg x).toNat) % 65536 ∧
        Completed { index := true } (s.pc + 2#16) s t) ∧
    (decode (patXKK 0xF x 0x29#8) = .ok (.ldF x) ∧
      ∃ t, exec (.ldF x) s = .next t ∧ t.index.toNat = (s.reg x).toNat * 5 ∧
        Completed { index := true } (s.pc + 2#16) s t)

/-- R223: Fx33 stores the hundreds, tens and units of V[x] at I, I + 1 and I + 2. Where one of these addresses lies above
0xFFF it faults DATA_OUT_OF_BOUNDS, where one lies below 0x050 PROTECTED_WRITE, at the lowest offending address, and no
byte is written. -/
def Obligations.StoreDecimalDigits : Prop :=
  ∀ (x : Reg) (s : State),
    decode (patXKK 0xF x 0x33#8) = .ok (.ldB x) ∧
    (0x050 ≤ s.index.toNat → s.index.toNat + 2 ≤ 0xFFF →
      ∃ t, exec (.ldB x) s = .next t ∧
        (t.mem.read s.index.toNat).toNat = (s.reg x).toNat / 100 ∧
        (t.mem.read (s.index.toNat + 1)).toNat = (s.reg x).toNat / 10 % 10 ∧
        (t.mem.read (s.index.toNat + 2)).toNat = (s.reg x).toNat % 10 ∧
        Completed { memFrom := s.index.toNat, memLen := 3 } (s.pc + 2#16) s t) ∧
    (s.index.toNat < 0x050 →
      ∃ t, exec (.ldB x) s = .next t ∧ FaultTaken .protectedWrite s.index (patXKK 0xF x 0x33#8) s t) ∧
    (0xFFF < s.index.toNat + 2 →
      ∃ t, exec (.ldB x) s = .next t ∧ FaultTaken .dataOutOfBounds (firstOutside s) (patXKK 0xF x 0x33#8) s t)

/-- R224: Fx55 stores V[0] to V[x] at I to I + x and then advances I by x + 1. Where one of these addresses lies above
0xFFF it faults DATA_OUT_OF_BOUNDS, where one lies below 0x050 PROTECTED_WRITE, at the lowest offending address; no byte
is written and I is not changed. -/
def Obligations.StoreRegisterBlock : Prop :=
  ∀ (x : Reg) (s : State),
    decode (patXKK 0xF x 0x55#8) = .ok (.ldMemVx x) ∧
    (0x050 ≤ s.index.toNat → s.index.toNat + x.val ≤ 0xFFF →
      ∃ t, exec (.ldMemVx x) s = .next t ∧
        (∀ k : Reg, k.val ≤ x.val → t.mem.read (s.index.toNat + k.val) = s.reg k) ∧
        t.index.toNat = s.index.toNat + x.val + 1 ∧
        Completed { index := true, memFrom := s.index.toNat, memLen := x.val + 1 } (s.pc + 2#16) s t) ∧
    (s.index.toNat < 0x050 →
      ∃ t, exec (.ldMemVx x) s = .next t ∧ FaultTaken .protectedWrite s.index (patXKK 0xF x 0x55#8) s t) ∧
    (0xFFF < s.index.toNat + x.val →
      ∃ t, exec (.ldMemVx x) s = .next t ∧ FaultTaken .dataOutOfBounds (firstOutside s) (patXKK 0xF x 0x55#8) s t)

/-- R225: Fx65 loads V[0] to V[x] from I to I + x and then advances I by x + 1. Where one of these addresses lies above
0xFFF it faults DATA_OUT_OF_BOUNDS at the lowest of them; no register is written and I is not changed. -/
def Obligations.LoadRegisterBlock : Prop :=
  ∀ (x : Reg) (s : State),
    decode (patXKK 0xF x 0x65#8) = .ok (.ldVxMem x) ∧
    (s.index.toNat + x.val ≤ 0xFFF →
      ∃ t, exec (.ldVxMem x) s = .next t ∧
        (∀ k : Reg, k.val ≤ x.val → t.reg k = s.mem.read (s.index.toNat + k.val)) ∧
        (∀ k : Reg, x.val < k.val → t.reg k = s.reg k) ∧
        t.index.toNat = s.index.toNat + x.val + 1 ∧
        Completed { regs := List.finRange 16, index := true } (s.pc + 2#16) s t) ∧
    (0xFFF < s.index.toNat + x.val →
      ∃ t, exec (.ldVxMem x) s = .next t ∧ FaultTaken .dataOutOfBounds (firstOutside s) (patXKK 0xF x 0x65#8) s t)

/-- R224 (source property W6): Fx55 followed by Fx65 with the same x, at the same starting I, reproduces V0 to Vx,
whatever the registers held before the load. -/
def Obligations.BlockRoundTrip : Prop :=
  ∀ (x : Reg) (s t u : State), 0x050 ≤ s.index.toNat → s.index.toNat + x.val ≤ 0xFFF →
    exec (.ldMemVx x) s = .next t → u.mem = t.mem → u.index = s.index →
    ∃ r, exec (.ldVxMem x) u = .next r ∧ ∀ k : Reg, k.val ≤ x.val → r.reg k = s.reg k

/-- R62: fetch is coherent with the writes of Fx55 and Fx33. After either has completed, in any
state with the memory it left and outside FAULTED, a step at any PC that can be fetched from runs the word whose two bytes
stand there now, high byte first: each is the byte the instruction stored there, and where it stored none the byte that
stood there before. -/
def Obligations.StoredCodeIsFetched : Prop :=
  (∀ (x : Reg) (s t u : State), 0x050 ≤ s.index.toNat → s.index.toNat + x.val ≤ 0xFFF → exec (.ldMemVx x) s = .next t →
    u.mem = t.mem → u.faulted = false → Fetchable u →
    RunsWord (BitVec.ofNat 16 ((byteAfterBlock s x u.pc.toNat).toNat * 256 +
      (byteAfterBlock s x (u.pc.toNat + 1)).toNat)) u) ∧
  (∀ (x : Reg) (s t u : State), 0x050 ≤ s.index.toNat → s.index.toNat + 2 ≤ 0xFFF → exec (.ldB x) s = .next t →
    u.mem = t.mem → u.faulted = false → Fetchable u →
    RunsWord (BitVec.ofNat 16 ((byteAfterDigits s x u.pc.toNat).toNat * 256 +
      (byteAfterDigits s x (u.pc.toNat + 1)).toNat)) u)

/-! ### Framebuffer -/

/-- R262: 00E0 clears every pixel and sets FB_DIRTY. VF and everything else is unchanged. -/
def Obligations.ClearScreen : Prop :=
  decode 0x00E0#16 = .ok .cls ∧
  ∀ s : State, ∃ t, exec .cls s = .next t ∧ (∀ c q, pixel t.fb c q = false) ∧ t.fbDirty = true ∧
    Completed { display := true } (s.pc + 2#16) s t

/-- R263: Dxyn inverts exactly the pixels on which a set bit of the sprite falls, wrapping each on its own, with VF = 1 if
one of them was set and 0 otherwise, and sets FB_DIRTY. Where a sprite byte lies above 0xFFF it faults
DATA_OUT_OF_BOUNDS at the lowest such address, with nothing drawn. -/
def Obligations.DrawSprite : Prop :=
  ∀ (x y : Reg) (n : Nibble) (s : State),
    decode (patXYN 0xD x y n) = .ok (.drw x y n) ∧
    (SpriteInMemory s n →
      ∃ t, exec (.drw x y n) s = .next t ∧
        (∀ c q, SpriteOn s x y n c q → pixel t.fb c q = !pixel s.fb c q) ∧
        (∀ c q, ¬SpriteOn s x y n c q → pixel t.fb c q = pixel s.fb c q) ∧
        ((∃ c q, SpriteOn s x y n c q ∧ pixel s.fb c q = true) → t.reg vf = 1#8) ∧
        ((¬∃ c q, SpriteOn s x y n c q ∧ pixel s.fb c q = true) → t.reg vf = 0#8) ∧
        t.fbDirty = true ∧
        Completed { regs := [vf], display := true } (s.pc + 2#16) s t) ∧
    (¬SpriteInMemory s n →
      ∃ t, exec (.drw x y n) s = .next t ∧ FaultTaken .dataOutOfBounds (firstOutside s) (patXYN 0xD x y n) s t)

/-- R265: drawing the same sprite at the same origin twice in succession restores every pixel, and the second draw sets
VF = 1 exactly when a set sprite bit falls on a pixel that was 0 before the first draw. And a one-row sprite at origin
(63, 31) puts bit 7 on column 63 and bits 6 to 0 on columns 0 to 6, all on row 31. -/
def Obligations.DrawTwiceRestores : Prop :=
  (∀ (x y : Reg) (n : Nibble) (s t : State), SpriteInMemory s n → exec (.drw x y n) s = .next t →
    (t.reg x).toNat % 64 = (s.reg x).toNat % 64 → (t.reg y).toNat % 32 = (s.reg y).toNat % 32 →
    ∃ u, exec (.drw x y n) t = .next u ∧ (∀ c q, pixel u.fb c q = pixel s.fb c q) ∧
      (u.reg vf = 1#8 ↔ ∃ c q, SpriteOn s x y n c q ∧ pixel s.fb c q = false) ∧
      (u.reg vf = 0#8 ↔ ¬∃ c q, SpriteOn s x y n c q ∧ pixel s.fb c q = false)) ∧
  (∀ (x y : Reg) (s : State), s.index.toNat ≤ 0xFFF → (s.reg x).toNat % 64 = 63 → (s.reg y).toNat % 32 = 31 →
    ∃ t, exec (.drw x y 1#4) s = .next t ∧
      pixel t.fb 63 31 = (pixel s.fb 63 31 ^^ (s.mem.read s.index.toNat).getLsbD 7) ∧
      (∀ c : Fin 64, c.val ≤ 6 →
        pixel t.fb c 31 = (pixel s.fb c 31 ^^ (s.mem.read s.index.toNat).getLsbD (6 - c.val))) ∧
      (∀ (c : Fin 64) (q : Fin 32), q ≠ 31 ∨ (6 < c.val ∧ c.val < 63) → pixel t.fb c q = pixel s.fb c q))

/-- R261: the packed read form. Bit 7 - j of byte b is the pixel at column 8 (b mod 8) + j, row b div 8; equivalently the
pixel at (c, r) is bit 7 - (c mod 8) of byte 8 r + (c div 8). -/
def Obligations.PackedReadForm : Prop :=
  ∀ s : State,
    (∀ (b : Byte) (j : Nat) (c : Fin 64) (r : Fin 32), j < 8 → c.val = 8 * (b.toNat % 8) + j → r.val = b.toNat / 8 →
      (s.fbRdata b).getLsbD (7 - j) = pixel s.fb c r) ∧
    (∀ (c : Fin 64) (r : Fin 32),
      pixel s.fb c r = (s.fbRdata (BitVec.ofNat 8 (8 * r.val + c.val / 8))).getLsbD (7 - c.val % 8))

/-- R264: 00E0 and Dxyn set FB_DIRTY whenever they complete, fb_ack and reset clear it, and no other event changes it. -/
def Obligations.DirtyFlagProtocol : Prop :=
  (∀ s t : State, exec .cls s = .next t → t.fbDirty = true) ∧
  (∀ (x y : Reg) (n : Nibble) (s t : State), SpriteInMemory s n → exec (.drw x y n) s = .next t → t.fbDirty = true) ∧
  (∀ s t : State, s.faulted = false → s.onEvent .fbAck = .next t → t.fbDirty = false) ∧
  (∀ s t : State, s.onEvent .reset = .next t → t.fbDirty = false) ∧
  (∀ (s t : State) (e : Event), e ≠ .fbAck → e ≠ .reset → s.onEvent e = .next t → t.fbDirty ≠ s.fbDirty →
    e = .step ∧ (decode (fetchedWord s) = .ok .cls ∨ ∃ x y n, decode (fetchedWord s) = .ok (.drw x y n)))

/-! ### Timers and keys -/

/-- R290 to R292: Fx07 reads DT into V[x], Fx15 sets DT and Fx18 sets ST to V[x]. From there, k ticks with no event
between leave DT at V[x] - k, floored at 0, and sound_active at 1 exactly until ST has reached 0. -/
def Obligations.TimerInstructions : Prop :=
  ∀ (x : Reg) (s : State),
    (decode (patXKK 0xF x 0x07#8) = .ok (.ldVxDt x) ∧
      ∃ t, exec (.ldVxDt x) s = .next t ∧ t.reg x = s.dt ∧ Completed { regs := [x] } (s.pc + 2#16) s t) ∧
    (decode (patXKK 0xF x 0x15#8) = .ok (.ldDtVx x) ∧
      ∃ t, exec (.ldDtVx x) s = .next t ∧ t.dt = s.reg x ∧ Completed { dt := true } (s.pc + 2#16) s t ∧
        (s.faulted = false → ∀ k, ∃ u, t.onEvents (List.replicate k .tick) = .next u ∧
          u.dt.toNat = (s.reg x).toNat - k)) ∧
    (decode (patXKK 0xF x 0x18#8) = .ok (.ldStVx x) ∧
      ∃ t, exec (.ldStVx x) s = .next t ∧ t.st = s.reg x ∧ Completed { st := true } (s.pc + 2#16) s t ∧
        (t.soundActive = true ↔ s.reg x ≠ 0#8) ∧
        (s.faulted = false → ∀ k, ∃ u, t.onEvents (List.replicate k .tick) = .next u ∧
          u.st.toNat = (s.reg x).toNat - k ∧ (u.soundActive = true ↔ k < (s.reg x).toNat)))

/-- R293 and R294: Ex9E skips if the key numbered V[x] is pressed, ExA1 if it is not. Above 0xF both fault
KEY_INDEX_OUT_OF_RANGE. -/
def Obligations.KeySkips : Prop :=
  ∀ (x : Reg) (s : State),
    decode (patXKK 0xE x 0x9E#8) = .ok (.skp x) ∧ decode (patXKK 0xE x 0xA1#8) = .ok (.sknp x) ∧
    (∀ k : Fin 16, (s.reg x).toNat = k.val →
      (∃ t, exec (.skp x) s = .next t ∧
        Completed {} (if s.keys[k.val] = true then s.pc + 4#16 else s.pc + 2#16) s t) ∧
      (∃ t, exec (.sknp x) s = .next t ∧
        Completed {} (if s.keys[k.val] = true then s.pc + 2#16 else s.pc + 4#16) s t)) ∧
    (0xF < (s.reg x).toNat →
      (∃ t, exec (.skp x) s = .next t ∧
        FaultTaken .keyIndexOutOfRange (BitVec.ofNat 16 (s.reg x).toNat) (patXKK 0xE x 0x9E#8) s t) ∧
      (∃ t, exec (.sknp x) s = .next t ∧
        FaultTaken .keyIndexOutOfRange (BitVec.ofNat 16 (s.reg x).toNat) (patXKK 0xE x 0xA1#8) s t))

/-- R295: Fx0A. With no key pressed PC keeps its value and nothing changes but STARTED; otherwise V[x] receives the
lowest-indexed pressed key and PC advances by 2. -/
def Obligations.KeyWait : Prop :=
  ∀ (x : Reg) (s : State),
    decode (patXKK 0xF x 0x0A#8) = .ok (.ldVxK x) ∧
    ((∀ k : Fin 16, s.keys[k.val] = false) → ∃ t, exec (.ldVxK x) s = .next t ∧ Completed {} s.pc s t) ∧
    (∀ k : Fin 16, s.keys[k.val] = true → (∀ j : Fin 16, j.val < k.val → s.keys[j.val] = false) →
      ∃ t, exec (.ldVxK x) s = .next t ∧ (t.reg x).toNat = k.val ∧ Completed { regs := [x] } (s.pc + 2#16) s t)

/-! ### Host events and outputs -/

/-- R117: a tick decrements each timer by one, flooring at 0, and changes nothing else; in FAULTED it changes nothing. -/
def Obligations.TickCountsDown : Prop :=
  ∀ s : State, ∃ t, s.onEvent .tick = .next t ∧
    (s.faulted = true → t = s) ∧
    (s.faulted = false →
      t.dt.toNat = s.dt.toNat - 1 ∧ t.st.toNat = s.st.toNat - 1 ∧ t = { s with dt := t.dt, st := t.st })

/-- R118: key_write(k, v) sets K[k] to v, outside FAULTED, and changes nothing else. -/
def Obligations.KeyWriteSetsOneKey : Prop :=
  ∀ (k : Fin 16) (b : Bool) (s : State), s.faulted = false →
    ∃ t, s.onEvent (.keyWrite k b) = .next t ∧ t.keys[k.val] = b ∧
      (∀ j : Fin 16, j ≠ k → t.keys[j.val] = s.keys[j.val]) ∧ t = { s with keys := t.keys }

/-- R119: a load writes M[addr], only while STARTED = 0 and FAULTED = 0 and at 0x200 or above, and is otherwise ignored;
and a program of at most 3584 bytes, loaded byte by byte from 0x200, is in place. -/
def Obligations.ProgramLoad : Prop :=
  (∀ (addr : Addr12) (data : Byte) (s : State), ∃ t, s.onEvent (.load addr data) = .next t ∧
    (s.faulted = true ∨ s.started = true ∨ addr.toNat < 0x200 → t = s) ∧
    (s.faulted = false → s.started = false → 0x200 ≤ addr.toNat →
      t.mem.read addr.toNat = data ∧ (∀ a, a ≠ addr.toNat → t.mem.read a = s.mem.read a) ∧
        t = { s with mem := t.mem })) ∧
  (∀ (prog : List Byte) (s : State), s.faulted = false → s.started = false → prog.length ≤ 3584 →
    ∃ t, s.onEvents (loadsFrom 0x200 prog) = .next t ∧
      (∀ k (h : k < prog.length), t.mem.read (0x200 + k) = prog[k]) ∧
      (∀ a, a < 0x200 ∨ 0x200 + prog.length ≤ a → t.mem.read a = s.mem.read a) ∧ t = { s with mem := t.mem })

/-- R120: fb_ack clears FB_DIRTY, outside FAULTED, and changes nothing else. -/
def Obligations.AcknowledgeClearsDirty : Prop :=
  ∀ s : State, s.faulted = false → ∃ t, s.onEvent .fbAck = .next t ∧ t = { s with fbDirty := false }

/-- R121, R29 and R321: the outputs fb_dirty, sound_active, faulted, fault_code and fb_rdata and the three bits of STATUS
report the state, and the fault codes have the numbers 0 to 8. -/
def Obligations.OutputsReportState : Prop :=
  (∀ s : State, s.fbDirtyOut = s.fbDirty ∧ (s.soundActive = true ↔ s.st ≠ 0#8) ∧ s.faultedOut = s.faulted ∧
    s.faultCodeOut = faultCodeBits s.faultCode ∧ (∀ b, s.fbRdata b = packedByte s.fb b) ∧
    s.status.getLsbD 0 = s.started ∧ s.status.getLsbD 1 = s.faulted ∧ s.status.getLsbD 2 = s.fbDirty) ∧
  [FaultCode.none, .fetchMisaligned, .fetchOutOfBounds, .illegalOpcode, .stackOverflow, .stackUnderflow,
    .dataOutOfBounds, .protectedWrite, .keyIndexOutOfRange].map (fun c => (faultCodeBits c).toNat) =
    [0, 1, 2, 3, 4, 5, 6, 7, 8]

/-- R360: a reset, in every state, sets every item of state to its reset value. FONT is the machine's
argument, which is kept: nothing here rests on its bytes. -/
def Obligations.ResetRestoresEverything : Prop :=
  ∀ s : State, ∃ t, s.onEvent .reset = .next t ∧
    (∀ r, t.reg r = 0x00#8) ∧ t.index = 0x0000#16 ∧ t.pc = 0x200#16 ∧ t.sp.val = 0 ∧
    (∀ k < 16, t.stack[k]? = some 0x0000#16) ∧ t.dt = 0x00#8 ∧ t.st = 0x00#8 ∧
    (∀ c q, pixel t.fb c q = false) ∧ (∀ k : Fin 16, t.keys[k.val] = false) ∧
    t.mem.font = s.mem.font ∧ (∀ a < 0x050, s.mem.font[a]? = some (t.mem.read a)) ∧ (∀ a, 0x050 ≤ a → t.mem.read a = 0x00#8) ∧
    t.started = false ∧ t.faulted = false ∧ t.fbDirty = false ∧
    t.faultCode = .none ∧ t.faultPc = 0x0000#16 ∧ t.faultWord = 0x0000#16 ∧ t.faultAddr = 0x0000#16

/-- R363: with no load, the first step after reset fetches 0x0000 at 0x200 and faults ILLEGAL_OPCODE, whatever FONT is. -/
def Obligations.FirstStepWithoutProgram : Prop :=
  ∀ f : Font, ∃ t, step (State.resetWith f) = .next t ∧
    FaultTaken .illegalOpcode 0x0200#16 0x0000#16 (State.resetWith f) t

/-- R123: a step in the idle end leaves every item of state unchanged, STARTED being already 1. -/
def Obligations.IdleStepChangesNothing : Prop :=
  ∀ s : State, IdleEnd s → s.started = true → step s = .next s
end

