-- ==== Sys2Proof/Laws/State.lean ====
section
/-! SUPPORT. What each update of State leaves in each field: one lemma per field per update, so that no proof unfolds a
record update. -/

namespace Sys2Proof.Machine

variable (s : State)

/-! ### setReg: V[r] <- b -/

@[simp] theorem State.setReg_v (r : Reg) (b : Byte) : (s.setReg r b).v = s.v.set r.val b := rfl
@[simp] theorem State.setReg_index (r : Reg) (b : Byte) : (s.setReg r b).index = s.index := rfl
@[simp] theorem State.setReg_pc (r : Reg) (b : Byte) : (s.setReg r b).pc = s.pc := rfl
@[simp] theorem State.setReg_sp (r : Reg) (b : Byte) : (s.setReg r b).sp = s.sp := rfl
@[simp] theorem State.setReg_stack (r : Reg) (b : Byte) : (s.setReg r b).stack = s.stack := rfl
@[simp] theorem State.setReg_dt (r : Reg) (b : Byte) : (s.setReg r b).dt = s.dt := rfl
@[simp] theorem State.setReg_st (r : Reg) (b : Byte) : (s.setReg r b).st = s.st := rfl
@[simp] theorem State.setReg_fb (r : Reg) (b : Byte) : (s.setReg r b).fb = s.fb := rfl
@[simp] theorem State.setReg_keys (r : Reg) (b : Byte) : (s.setReg r b).keys = s.keys := rfl
@[simp] theorem State.setReg_mem (r : Reg) (b : Byte) : (s.setReg r b).mem = s.mem := rfl
@[simp] theorem State.setReg_started (r : Reg) (b : Byte) : (s.setReg r b).started = s.started := rfl
@[simp] theorem State.setReg_faulted (r : Reg) (b : Byte) : (s.setReg r b).faulted = s.faulted := rfl
@[simp] theorem State.setReg_fbDirty (r : Reg) (b : Byte) : (s.setReg r b).fbDirty = s.fbDirty := rfl
@[simp] theorem State.setReg_faultCode (r : Reg) (b : Byte) : (s.setReg r b).faultCode = s.faultCode := rfl
@[simp] theorem State.setReg_faultPc (r : Reg) (b : Byte) : (s.setReg r b).faultPc = s.faultPc := rfl
@[simp] theorem State.setReg_faultWord (r : Reg) (b : Byte) : (s.setReg r b).faultWord = s.faultWord := rfl
@[simp] theorem State.setReg_faultAddr (r : Reg) (b : Byte) : (s.setReg r b).faultAddr = s.faultAddr := rfl
@[simp] theorem State.setReg_draws (r : Reg) (b : Byte) : (s.setReg r b).draws = s.draws := rfl

/-! ### loadRegs: V[0], V[1], ... <- bytes -/

@[simp] theorem State.loadRegs_v (bs : List Byte) : (s.loadRegs bs).v = setRegs s.v 0 bs := rfl
@[simp] theorem State.loadRegs_index (bs : List Byte) : (s.loadRegs bs).index = s.index := rfl
@[simp] theorem State.loadRegs_pc (bs : List Byte) : (s.loadRegs bs).pc = s.pc := rfl
@[simp] theorem State.loadRegs_sp (bs : List Byte) : (s.loadRegs bs).sp = s.sp := rfl
@[simp] theorem State.loadRegs_stack (bs : List Byte) : (s.loadRegs bs).stack = s.stack := rfl
@[simp] theorem State.loadRegs_dt (bs : List Byte) : (s.loadRegs bs).dt = s.dt := rfl
@[simp] theorem State.loadRegs_st (bs : List Byte) : (s.loadRegs bs).st = s.st := rfl
@[simp] theorem State.loadRegs_fb (bs : List Byte) : (s.loadRegs bs).fb = s.fb := rfl
@[simp] theorem State.loadRegs_keys (bs : List Byte) : (s.loadRegs bs).keys = s.keys := rfl
@[simp] theorem State.loadRegs_mem (bs : List Byte) : (s.loadRegs bs).mem = s.mem := rfl
@[simp] theorem State.loadRegs_started (bs : List Byte) : (s.loadRegs bs).started = s.started := rfl
@[simp] theorem State.loadRegs_faulted (bs : List Byte) : (s.loadRegs bs).faulted = s.faulted := rfl
@[simp] theorem State.loadRegs_fbDirty (bs : List Byte) : (s.loadRegs bs).fbDirty = s.fbDirty := rfl
@[simp] theorem State.loadRegs_faultCode (bs : List Byte) : (s.loadRegs bs).faultCode = s.faultCode := rfl
@[simp] theorem State.loadRegs_faultPc (bs : List Byte) : (s.loadRegs bs).faultPc = s.faultPc := rfl
@[simp] theorem State.loadRegs_faultWord (bs : List Byte) : (s.loadRegs bs).faultWord = s.faultWord := rfl
@[simp] theorem State.loadRegs_faultAddr (bs : List Byte) : (s.loadRegs bs).faultAddr = s.faultAddr := rfl
@[simp] theorem State.loadRegs_draws (bs : List Byte) : (s.loadRegs bs).draws = s.draws := rfl

/-! ### setIndex: I <- w -/

@[simp] theorem State.setIndex_v (w : Word) : (s.setIndex w).v = s.v := rfl
@[simp] theorem State.setIndex_index (w : Word) : (s.setIndex w).index = w := rfl
@[simp] theorem State.setIndex_pc (w : Word) : (s.setIndex w).pc = s.pc := rfl
@[simp] theorem State.setIndex_sp (w : Word) : (s.setIndex w).sp = s.sp := rfl
@[simp] theorem State.setIndex_stack (w : Word) : (s.setIndex w).stack = s.stack := rfl
@[simp] theorem State.setIndex_dt (w : Word) : (s.setIndex w).dt = s.dt := rfl
@[simp] theorem State.setIndex_st (w : Word) : (s.setIndex w).st = s.st := rfl
@[simp] theorem State.setIndex_fb (w : Word) : (s.setIndex w).fb = s.fb := rfl
@[simp] theorem State.setIndex_keys (w : Word) : (s.setIndex w).keys = s.keys := rfl
@[simp] theorem State.setIndex_mem (w : Word) : (s.setIndex w).mem = s.mem := rfl
@[simp] theorem State.setIndex_started (w : Word) : (s.setIndex w).started = s.started := rfl
@[simp] theorem State.setIndex_faulted (w : Word) : (s.setIndex w).faulted = s.faulted := rfl
@[simp] theorem State.setIndex_fbDirty (w : Word) : (s.setIndex w).fbDirty = s.fbDirty := rfl
@[simp] theorem State.setIndex_faultCode (w : Word) : (s.setIndex w).faultCode = s.faultCode := rfl
@[simp] theorem State.setIndex_faultPc (w : Word) : (s.setIndex w).faultPc = s.faultPc := rfl
@[simp] theorem State.setIndex_faultWord (w : Word) : (s.setIndex w).faultWord = s.faultWord := rfl
@[simp] theorem State.setIndex_faultAddr (w : Word) : (s.setIndex w).faultAddr = s.faultAddr := rfl
@[simp] theorem State.setIndex_draws (w : Word) : (s.setIndex w).draws = s.draws := rfl

/-! ### setDt: DT <- b -/

@[simp] theorem State.setDt_v (b : Byte) : (s.setDt b).v = s.v := rfl
@[simp] theorem State.setDt_index (b : Byte) : (s.setDt b).index = s.index := rfl
@[simp] theorem State.setDt_pc (b : Byte) : (s.setDt b).pc = s.pc := rfl
@[simp] theorem State.setDt_sp (b : Byte) : (s.setDt b).sp = s.sp := rfl
@[simp] theorem State.setDt_stack (b : Byte) : (s.setDt b).stack = s.stack := rfl
@[simp] theorem State.setDt_dt (b : Byte) : (s.setDt b).dt = b := rfl
@[simp] theorem State.setDt_st (b : Byte) : (s.setDt b).st = s.st := rfl
@[simp] theorem State.setDt_fb (b : Byte) : (s.setDt b).fb = s.fb := rfl
@[simp] theorem State.setDt_keys (b : Byte) : (s.setDt b).keys = s.keys := rfl
@[simp] theorem State.setDt_mem (b : Byte) : (s.setDt b).mem = s.mem := rfl
@[simp] theorem State.setDt_started (b : Byte) : (s.setDt b).started = s.started := rfl
@[simp] theorem State.setDt_faulted (b : Byte) : (s.setDt b).faulted = s.faulted := rfl
@[simp] theorem State.setDt_fbDirty (b : Byte) : (s.setDt b).fbDirty = s.fbDirty := rfl
@[simp] theorem State.setDt_faultCode (b : Byte) : (s.setDt b).faultCode = s.faultCode := rfl
@[simp] theorem State.setDt_faultPc (b : Byte) : (s.setDt b).faultPc = s.faultPc := rfl
@[simp] theorem State.setDt_faultWord (b : Byte) : (s.setDt b).faultWord = s.faultWord := rfl
@[simp] theorem State.setDt_faultAddr (b : Byte) : (s.setDt b).faultAddr = s.faultAddr := rfl
@[simp] theorem State.setDt_draws (b : Byte) : (s.setDt b).draws = s.draws := rfl

/-! ### setSt: ST <- b -/

@[simp] theorem State.setSt_v (b : Byte) : (s.setSt b).v = s.v := rfl
@[simp] theorem State.setSt_index (b : Byte) : (s.setSt b).index = s.index := rfl
@[simp] theorem State.setSt_pc (b : Byte) : (s.setSt b).pc = s.pc := rfl
@[simp] theorem State.setSt_sp (b : Byte) : (s.setSt b).sp = s.sp := rfl
@[simp] theorem State.setSt_stack (b : Byte) : (s.setSt b).stack = s.stack := rfl
@[simp] theorem State.setSt_dt (b : Byte) : (s.setSt b).dt = s.dt := rfl
@[simp] theorem State.setSt_st (b : Byte) : (s.setSt b).st = b := rfl
@[simp] theorem State.setSt_fb (b : Byte) : (s.setSt b).fb = s.fb := rfl
@[simp] theorem State.setSt_keys (b : Byte) : (s.setSt b).keys = s.keys := rfl
@[simp] theorem State.setSt_mem (b : Byte) : (s.setSt b).mem = s.mem := rfl
@[simp] theorem State.setSt_started (b : Byte) : (s.setSt b).started = s.started := rfl
@[simp] theorem State.setSt_faulted (b : Byte) : (s.setSt b).faulted = s.faulted := rfl
@[simp] theorem State.setSt_fbDirty (b : Byte) : (s.setSt b).fbDirty = s.fbDirty := rfl
@[simp] theorem State.setSt_faultCode (b : Byte) : (s.setSt b).faultCode = s.faultCode := rfl
@[simp] theorem State.setSt_faultPc (b : Byte) : (s.setSt b).faultPc = s.faultPc := rfl
@[simp] theorem State.setSt_faultWord (b : Byte) : (s.setSt b).faultWord = s.faultWord := rfl
@[simp] theorem State.setSt_faultAddr (b : Byte) : (s.setSt b).faultAddr = s.faultAddr := rfl
@[simp] theorem State.setSt_draws (b : Byte) : (s.setSt b).draws = s.draws := rfl

/-! ### setMem: M <- m -/

@[simp] theorem State.setMem_v (m : Memory) : (s.setMem m).v = s.v := rfl
@[simp] theorem State.setMem_index (m : Memory) : (s.setMem m).index = s.index := rfl
@[simp] theorem State.setMem_pc (m : Memory) : (s.setMem m).pc = s.pc := rfl
@[simp] theorem State.setMem_sp (m : Memory) : (s.setMem m).sp = s.sp := rfl
@[simp] theorem State.setMem_stack (m : Memory) : (s.setMem m).stack = s.stack := rfl
@[simp] theorem State.setMem_dt (m : Memory) : (s.setMem m).dt = s.dt := rfl
@[simp] theorem State.setMem_st (m : Memory) : (s.setMem m).st = s.st := rfl
@[simp] theorem State.setMem_fb (m : Memory) : (s.setMem m).fb = s.fb := rfl
@[simp] theorem State.setMem_keys (m : Memory) : (s.setMem m).keys = s.keys := rfl
@[simp] theorem State.setMem_mem (m : Memory) : (s.setMem m).mem = m := rfl
@[simp] theorem State.setMem_started (m : Memory) : (s.setMem m).started = s.started := rfl
@[simp] theorem State.setMem_faulted (m : Memory) : (s.setMem m).faulted = s.faulted := rfl
@[simp] theorem State.setMem_fbDirty (m : Memory) : (s.setMem m).fbDirty = s.fbDirty := rfl
@[simp] theorem State.setMem_faultCode (m : Memory) : (s.setMem m).faultCode = s.faultCode := rfl
@[simp] theorem State.setMem_faultPc (m : Memory) : (s.setMem m).faultPc = s.faultPc := rfl
@[simp] theorem State.setMem_faultWord (m : Memory) : (s.setMem m).faultWord = s.faultWord := rfl
@[simp] theorem State.setMem_faultAddr (m : Memory) : (s.setMem m).faultAddr = s.faultAddr := rfl
@[simp] theorem State.setMem_draws (m : Memory) : (s.setMem m).draws = s.draws := rfl

/-! ### setFb: FB <- f, FB_DIRTY <- 1 -/

@[simp] theorem State.setFb_v (f : Framebuffer) : (s.setFb f).v = s.v := rfl
@[simp] theorem State.setFb_index (f : Framebuffer) : (s.setFb f).index = s.index := rfl
@[simp] theorem State.setFb_pc (f : Framebuffer) : (s.setFb f).pc = s.pc := rfl
@[simp] theorem State.setFb_sp (f : Framebuffer) : (s.setFb f).sp = s.sp := rfl
@[simp] theorem State.setFb_stack (f : Framebuffer) : (s.setFb f).stack = s.stack := rfl
@[simp] theorem State.setFb_dt (f : Framebuffer) : (s.setFb f).dt = s.dt := rfl
@[simp] theorem State.setFb_st (f : Framebuffer) : (s.setFb f).st = s.st := rfl
@[simp] theorem State.setFb_fb (f : Framebuffer) : (s.setFb f).fb = f := rfl
@[simp] theorem State.setFb_keys (f : Framebuffer) : (s.setFb f).keys = s.keys := rfl
@[simp] theorem State.setFb_mem (f : Framebuffer) : (s.setFb f).mem = s.mem := rfl
@[simp] theorem State.setFb_started (f : Framebuffer) : (s.setFb f).started = s.started := rfl
@[simp] theorem State.setFb_faulted (f : Framebuffer) : (s.setFb f).faulted = s.faulted := rfl
@[simp] theorem State.setFb_fbDirty (f : Framebuffer) : (s.setFb f).fbDirty = true := rfl
@[simp] theorem State.setFb_faultCode (f : Framebuffer) : (s.setFb f).faultCode = s.faultCode := rfl
@[simp] theorem State.setFb_faultPc (f : Framebuffer) : (s.setFb f).faultPc = s.faultPc := rfl
@[simp] theorem State.setFb_faultWord (f : Framebuffer) : (s.setFb f).faultWord = s.faultWord := rfl
@[simp] theorem State.setFb_faultAddr (f : Framebuffer) : (s.setFb f).faultAddr = s.faultAddr := rfl
@[simp] theorem State.setFb_draws (f : Framebuffer) : (s.setFb f).draws = s.draws := rfl

/-! ### drawn: a random byte is used -/

@[simp] theorem State.drawn_v : s.drawn.v = s.v := rfl
@[simp] theorem State.drawn_index : s.drawn.index = s.index := rfl
@[simp] theorem State.drawn_pc : s.drawn.pc = s.pc := rfl
@[simp] theorem State.drawn_sp : s.drawn.sp = s.sp := rfl
@[simp] theorem State.drawn_stack : s.drawn.stack = s.stack := rfl
@[simp] theorem State.drawn_dt : s.drawn.dt = s.dt := rfl
@[simp] theorem State.drawn_st : s.drawn.st = s.st := rfl
@[simp] theorem State.drawn_fb : s.drawn.fb = s.fb := rfl
@[simp] theorem State.drawn_keys : s.drawn.keys = s.keys := rfl
@[simp] theorem State.drawn_mem : s.drawn.mem = s.mem := rfl
@[simp] theorem State.drawn_started : s.drawn.started = s.started := rfl
@[simp] theorem State.drawn_faulted : s.drawn.faulted = s.faulted := rfl
@[simp] theorem State.drawn_fbDirty : s.drawn.fbDirty = s.fbDirty := rfl
@[simp] theorem State.drawn_faultCode : s.drawn.faultCode = s.faultCode := rfl
@[simp] theorem State.drawn_faultPc : s.drawn.faultPc = s.faultPc := rfl
@[simp] theorem State.drawn_faultWord : s.drawn.faultWord = s.faultWord := rfl
@[simp] theorem State.drawn_faultAddr : s.drawn.faultAddr = s.faultAddr := rfl
@[simp] theorem State.drawn_draws : s.drawn.draws = s.draws + 1 := rfl

/-! ### push: push -/

@[simp] theorem State.push_v (w : Word) : (s.push w).v = s.v := rfl
@[simp] theorem State.push_index (w : Word) : (s.push w).index = s.index := rfl
@[simp] theorem State.push_pc (w : Word) : (s.push w).pc = s.pc := rfl
@[simp] theorem State.push_sp (w : Word) : (s.push w).sp = Fin.ofNat 17 (s.sp.val + 1) := rfl
@[simp] theorem State.push_stack (w : Word) : (s.push w).stack = s.stack.setIfInBounds s.sp.val w := rfl
@[simp] theorem State.push_dt (w : Word) : (s.push w).dt = s.dt := rfl
@[simp] theorem State.push_st (w : Word) : (s.push w).st = s.st := rfl
@[simp] theorem State.push_fb (w : Word) : (s.push w).fb = s.fb := rfl
@[simp] theorem State.push_keys (w : Word) : (s.push w).keys = s.keys := rfl
@[simp] theorem State.push_mem (w : Word) : (s.push w).mem = s.mem := rfl
@[simp] theorem State.push_started (w : Word) : (s.push w).started = s.started := rfl
@[simp] theorem State.push_faulted (w : Word) : (s.push w).faulted = s.faulted := rfl
@[simp] theorem State.push_fbDirty (w : Word) : (s.push w).fbDirty = s.fbDirty := rfl
@[simp] theorem State.push_faultCode (w : Word) : (s.push w).faultCode = s.faultCode := rfl
@[simp] theorem State.push_faultPc (w : Word) : (s.push w).faultPc = s.faultPc := rfl
@[simp] theorem State.push_faultWord (w : Word) : (s.push w).faultWord = s.faultWord := rfl
@[simp] theorem State.push_faultAddr (w : Word) : (s.push w).faultAddr = s.faultAddr := rfl
@[simp] theorem State.push_draws (w : Word) : (s.push w).draws = s.draws := rfl

/-! ### pop: pop -/

@[simp] theorem State.pop_v : s.pop.v = s.v := rfl
@[simp] theorem State.pop_index : s.pop.index = s.index := rfl
@[simp] theorem State.pop_pc : s.pop.pc = s.pc := rfl
@[simp] theorem State.pop_sp : s.pop.sp = Fin.ofNat 17 (s.sp.val - 1) := rfl
@[simp] theorem State.pop_stack : s.pop.stack = s.stack := rfl
@[simp] theorem State.pop_dt : s.pop.dt = s.dt := rfl
@[simp] theorem State.pop_st : s.pop.st = s.st := rfl
@[simp] theorem State.pop_fb : s.pop.fb = s.fb := rfl
@[simp] theorem State.pop_keys : s.pop.keys = s.keys := rfl
@[simp] theorem State.pop_mem : s.pop.mem = s.mem := rfl
@[simp] theorem State.pop_started : s.pop.started = s.started := rfl
@[simp] theorem State.pop_faulted : s.pop.faulted = s.faulted := rfl
@[simp] theorem State.pop_fbDirty : s.pop.fbDirty = s.fbDirty := rfl
@[simp] theorem State.pop_faultCode : s.pop.faultCode = s.faultCode := rfl
@[simp] theorem State.pop_faultPc : s.pop.faultPc = s.faultPc := rfl
@[simp] theorem State.pop_faultWord : s.pop.faultWord = s.faultWord := rfl
@[simp] theorem State.pop_faultAddr : s.pop.faultAddr = s.faultAddr := rfl
@[simp] theorem State.pop_draws : s.pop.draws = s.draws := rfl

/-! ### setPc: PC <- w -/

@[simp] theorem State.setPc_v (w : Word) : (s.setPc w).v = s.v := rfl
@[simp] theorem State.setPc_index (w : Word) : (s.setPc w).index = s.index := rfl
@[simp] theorem State.setPc_pc (w : Word) : (s.setPc w).pc = w := rfl
@[simp] theorem State.setPc_sp (w : Word) : (s.setPc w).sp = s.sp := rfl
@[simp] theorem State.setPc_stack (w : Word) : (s.setPc w).stack = s.stack := rfl
@[simp] theorem State.setPc_dt (w : Word) : (s.setPc w).dt = s.dt := rfl
@[simp] theorem State.setPc_st (w : Word) : (s.setPc w).st = s.st := rfl
@[simp] theorem State.setPc_fb (w : Word) : (s.setPc w).fb = s.fb := rfl
@[simp] theorem State.setPc_keys (w : Word) : (s.setPc w).keys = s.keys := rfl
@[simp] theorem State.setPc_mem (w : Word) : (s.setPc w).mem = s.mem := rfl
@[simp] theorem State.setPc_started (w : Word) : (s.setPc w).started = s.started := rfl
@[simp] theorem State.setPc_faulted (w : Word) : (s.setPc w).faulted = s.faulted := rfl
@[simp] theorem State.setPc_fbDirty (w : Word) : (s.setPc w).fbDirty = s.fbDirty := rfl
@[simp] theorem State.setPc_faultCode (w : Word) : (s.setPc w).faultCode = s.faultCode := rfl
@[simp] theorem State.setPc_faultPc (w : Word) : (s.setPc w).faultPc = s.faultPc := rfl
@[simp] theorem State.setPc_faultWord (w : Word) : (s.setPc w).faultWord = s.faultWord := rfl
@[simp] theorem State.setPc_faultAddr (w : Word) : (s.setPc w).faultAddr = s.faultAddr := rfl
@[simp] theorem State.setPc_draws (w : Word) : (s.setPc w).draws = s.draws := rfl

/-! ### start: STARTED <- 1 -/

@[simp] theorem State.start_v : s.start.v = s.v := rfl
@[simp] theorem State.start_index : s.start.index = s.index := rfl
@[simp] theorem State.start_pc : s.start.pc = s.pc := rfl
@[simp] theorem State.start_sp : s.start.sp = s.sp := rfl
@[simp] theorem State.start_stack : s.start.stack = s.stack := rfl
@[simp] theorem State.start_dt : s.start.dt = s.dt := rfl
@[simp] theorem State.start_st : s.start.st = s.st := rfl
@[simp] theorem State.start_fb : s.start.fb = s.fb := rfl
@[simp] theorem State.start_keys : s.start.keys = s.keys := rfl
@[simp] theorem State.start_mem : s.start.mem = s.mem := rfl
@[simp] theorem State.start_started : s.start.started = true := rfl
@[simp] theorem State.start_faulted : s.start.faulted = s.faulted := rfl
@[simp] theorem State.start_fbDirty : s.start.fbDirty = s.fbDirty := rfl
@[simp] theorem State.start_faultCode : s.start.faultCode = s.faultCode := rfl
@[simp] theorem State.start_faultPc : s.start.faultPc = s.faultPc := rfl
@[simp] theorem State.start_faultWord : s.start.faultWord = s.faultWord := rfl
@[simp] theorem State.start_faultAddr : s.start.faultAddr = s.faultAddr := rfl
@[simp] theorem State.start_draws : s.start.draws = s.draws := rfl

/-! ### takeFault: a fault is taken -/

@[simp] theorem State.takeFault_v (r : Raise) (w : Word) : (s.takeFault r w).v = s.v := rfl
@[simp] theorem State.takeFault_index (r : Raise) (w : Word) : (s.takeFault r w).index = s.index := rfl
@[simp] theorem State.takeFault_pc (r : Raise) (w : Word) : (s.takeFault r w).pc = s.pc := rfl
@[simp] theorem State.takeFault_sp (r : Raise) (w : Word) : (s.takeFault r w).sp = s.sp := rfl
@[simp] theorem State.takeFault_stack (r : Raise) (w : Word) : (s.takeFault r w).stack = s.stack := rfl
@[simp] theorem State.takeFault_dt (r : Raise) (w : Word) : (s.takeFault r w).dt = s.dt := rfl
@[simp] theorem State.takeFault_st (r : Raise) (w : Word) : (s.takeFault r w).st = s.st := rfl
@[simp] theorem State.takeFault_fb (r : Raise) (w : Word) : (s.takeFault r w).fb = s.fb := rfl
@[simp] theorem State.takeFault_keys (r : Raise) (w : Word) : (s.takeFault r w).keys = s.keys := rfl
@[simp] theorem State.takeFault_mem (r : Raise) (w : Word) : (s.takeFault r w).mem = s.mem := rfl
@[simp] theorem State.takeFault_started (r : Raise) (w : Word) : (s.takeFault r w).started = true := rfl
@[simp] theorem State.takeFault_faulted (r : Raise) (w : Word) : (s.takeFault r w).faulted = true := rfl
@[simp] theorem State.takeFault_fbDirty (r : Raise) (w : Word) : (s.takeFault r w).fbDirty = s.fbDirty := rfl
@[simp] theorem State.takeFault_faultCode (r : Raise) (w : Word) : (s.takeFault r w).faultCode = r.code := rfl
@[simp] theorem State.takeFault_faultPc (r : Raise) (w : Word) : (s.takeFault r w).faultPc = s.pc := rfl
@[simp] theorem State.takeFault_faultWord (r : Raise) (w : Word) : (s.takeFault r w).faultWord = w := rfl
@[simp] theorem State.takeFault_faultAddr (r : Raise) (w : Word) : (s.takeFault r w).faultAddr = r.addr := rfl
@[simp] theorem State.takeFault_draws (r : Raise) (w : Word) : (s.takeFault r w).draws = s.draws := rfl

/-! ### resetWith: the reset state of a machine with a given FONT -/

@[simp] theorem State.resetWith_v (f : Font) : (State.resetWith f).v = Vector.replicate 16 0x00#8 := rfl
@[simp] theorem State.resetWith_index (f : Font) : (State.resetWith f).index = 0x0000#16 := rfl
@[simp] theorem State.resetWith_pc (f : Font) : (State.resetWith f).pc = 0x0200#16 := rfl
@[simp] theorem State.resetWith_sp (f : Font) : (State.resetWith f).sp = 0 := rfl
@[simp] theorem State.resetWith_stack (f : Font) : (State.resetWith f).stack = Vector.replicate 16 0x0000#16 := rfl
@[simp] theorem State.resetWith_dt (f : Font) : (State.resetWith f).dt = 0x00#8 := rfl
@[simp] theorem State.resetWith_st (f : Font) : (State.resetWith f).st = 0x00#8 := rfl
@[simp] theorem State.resetWith_fb (f : Font) : (State.resetWith f).fb = Vector.replicate 32 0#64 := rfl
@[simp] theorem State.resetWith_keys (f : Font) : (State.resetWith f).keys = Vector.replicate 16 false := rfl
@[simp] theorem State.resetWith_mem (f : Font) : (State.resetWith f).mem = { font := f, cells := [] } := rfl
@[simp] theorem State.resetWith_started (f : Font) : (State.resetWith f).started = false := rfl
@[simp] theorem State.resetWith_faulted (f : Font) : (State.resetWith f).faulted = false := rfl
@[simp] theorem State.resetWith_fbDirty (f : Font) : (State.resetWith f).fbDirty = false := rfl
@[simp] theorem State.resetWith_faultCode (f : Font) : (State.resetWith f).faultCode = .none := rfl
@[simp] theorem State.resetWith_faultPc (f : Font) : (State.resetWith f).faultPc = 0x0000#16 := rfl
@[simp] theorem State.resetWith_faultWord (f : Font) : (State.resetWith f).faultWord = 0x0000#16 := rfl
@[simp] theorem State.resetWith_faultAddr (f : Font) : (State.resetWith f).faultAddr = 0x0000#16 := rfl
@[simp] theorem State.resetWith_draws (f : Font) : (State.resetWith f).draws = 0 := rfl

end Sys2Proof.Machine
end

