-- ==== Sys2Proof/Laws/Faults.lean ====
section
/-! SUPPORT. The address tests and the two ways an instruction ends. -/

namespace Sys2Proof.Machine

/-- No offence: every address of the block passes the test. -/
theorem firstOffence_eq_none (test : Nat → Option Raise) (a n : Nat) :
    firstOffence test a n = none ↔ ∀ k < n, test (a + k) = none := by
  induction n generalizing a with
  | zero => simp [firstOffence]
  | succ n ih =>
    rw [firstOffence]
    cases h : test a with
    | some r =>
      simp only [reduceCtorEq, false_iff, not_forall]
      exact ⟨0, by omega, by simp [h]⟩
    | none =>
      rw [ih]
      constructor
      · intro hk k hlt
        cases k with
        | zero => simpa using h
        | succ k => have := hk k (by omega); rwa [show a + (k + 1) = a + 1 + k by omega]
      · intro hk k hlt
        rw [show a + 1 + k = a + (k + 1) by omega]
        exact hk (k + 1) (by omega)

/-- An offence: it is that of the lowest offending address of the block. -/
theorem firstOffence_eq_some {test : Nat → Option Raise} {a n : Nat} {r : Raise} (h : firstOffence test a n = some r) :
    ∃ k < n, test (a + k) = some r ∧ ∀ j < k, test (a + j) = none := by
  induction n generalizing a with
  | zero => simp [firstOffence] at h
  | succ n ih =>
    rw [firstOffence] at h
    cases h0 : test a with
    | some q =>
      rw [h0] at h
      exact ⟨0, by omega, by simpa [h0] using h, by omega⟩
    | none =>
      rw [h0] at h
      obtain ⟨k, hk, h1, h2⟩ := ih h
      refine ⟨k + 1, by omega, by rwa [show a + (k + 1) = a + 1 + k by omega], fun j hj => ?_⟩
      cases j with
      | zero => simpa using h0
      | succ j => have := h2 j (by omega); rwa [show a + (j + 1) = a + 1 + j by omega]

theorem readOffence_eq_none (a : Nat) : readOffence a = none ↔ a ≤ 0xFFF := by
  simp [readOffence]

theorem writeOffence_eq_none (a : Nat) : writeOffence a = none ↔ 0x050 ≤ a ∧ a ≤ 0xFFF := by
  unfold writeOffence Config.fontSize
  by_cases h1 : 0xFFF < a
  · rw [if_pos h1]
    simp
    omega
  · rw [if_neg h1]
    by_cases h2 : a < 80
    · rw [if_pos h2]
      simp
      omega
    · rw [if_neg h2]
      simp
      omega

/-- A block whose first address lies below the font's end: PROTECTED_WRITE there. -/
theorem firstOffence_write_font {a n : Nat} (h : a < 0x050) (hn : 0 < n) :
    firstOffence writeOffence a n = some ⟨.protectedWrite, BitVec.ofNat 16 a⟩ := by
  obtain ⟨m, rfl⟩ := Nat.exists_eq_succ_of_ne_zero hn.ne'
  have : writeOffence a = some ⟨.protectedWrite, BitVec.ofNat 16 a⟩ := by
    unfold writeOffence Config.fontSize
    rw [if_neg (by omega), if_pos h]
  rw [firstOffence, this]

/-- A block that passes its test inside memory and runs past 0xFFF: DATA_OUT_OF_BOUNDS at the lowest address above it. -/
theorem firstOffence_outside {test : Nat → Option Raise} {a n : Nat}
    (h0 : ∀ k, a ≤ k → k ≤ 0xFFF → test k = none)
    (h1 : ∀ k, 0xFFF < k → test k = some ⟨.dataOutOfBounds, BitVec.ofNat 16 k⟩) (h : 0xFFF < a + n - 1) (hn : 0 < n) :
    firstOffence test a n = some ⟨.dataOutOfBounds, BitVec.ofNat 16 (if 0xFFF < a then a else 0x1000)⟩ := by
  induction n generalizing a with
  | zero => omega
  | succ n ih =>
    rw [firstOffence]
    by_cases ha : 0xFFF < a
    · rw [h1 a ha, if_pos ha]
    · rw [h0 a (by omega) (by omega)]
      simp only
      rw [ih (fun k hk => h0 k (by omega)) (by omega) (by omega)]
      congr 3
      rw [if_neg ha]
      split <;> omega

theorem firstOffence_read_outside {a n : Nat} (h : 0xFFF < a + n - 1) (hn : 0 < n) :
    firstOffence readOffence a n = some ⟨.dataOutOfBounds, BitVec.ofNat 16 (if 0xFFF < a then a else 0x1000)⟩ :=
  firstOffence_outside (fun k _ hk => (readOffence_eq_none k).2 hk) (fun k hk => by simp [readOffence, hk]) h hn

theorem firstOffence_write_outside {a n : Nat} (ha : 0x050 ≤ a) (h : 0xFFF < a + n - 1) (hn : 0 < n) :
    firstOffence writeOffence a n = some ⟨.dataOutOfBounds, BitVec.ofNat 16 (if 0xFFF < a then a else 0x1000)⟩ :=
  firstOffence_outside (fun k hk hk' => (writeOffence_eq_none k).2 ⟨by omega, hk'⟩)
    (fun k hk => by simp [writeOffence, hk]) h hn

/-- Everything `finish` can do. -/
theorem finish_eq_next {p : Word} {s t : State} : finish p s = .next t ↔ t = (s.setPc p).start := by
  simp [finish, eq_comm]

/-- Everything `guarded` can do: take the fault, or answer the effect where there is no offence. -/
theorem guarded_cases {o : Option Raise} {i : Instr} {s t : State} {e : Result} (h : guarded o i s e = .next t) :
    (∃ r, o = some r ∧ t = s.takeFault r (encode i)) ∨ (o = none ∧ e = .next t) := by
  cases o with
  | none => exact .inr ⟨rfl, h⟩
  | some r => exact .inl ⟨r, rfl, (Host.Outcome.next.inj h).symm⟩

@[simp] theorem guarded_none (i : Instr) (s : State) (e : Result) : guarded none i s e = e := rfl

@[simp] theorem guarded_some (r : Raise) (i : Instr) (s : State) (e : Result) :
    guarded (some r) i s e = .next (s.takeFault r (encode i)) := rfl

end Sys2Proof.Machine
end

