-- ==== Sys2Proof/Laws/Framebuffer.lean ====
section
/-! SUPPORT. Pixels after the framebuffer's operations. -/

namespace Sys2Proof.Machine

/-- A toggle inverts its own pixel and no other. -/
theorem pixel_togglePixel (fb : Framebuffer) (c c' : Fin 64) (r r' : Fin 32) :
    pixel (togglePixel fb c r) c' r' = (pixel fb c' r' ^^ decide (c' = c ∧ r' = r)) := by
  have hc := c.isLt
  have hc' := c'.isLt
  unfold pixel togglePixel
  by_cases hr : r' = r
  · subst hr
    have h1 : (63 - c.val = 63 - c'.val) = (c'.val = c.val) := by
      apply propext
      omega
    have h2 : 63 - c.val < 64 := by omega
    simp [BitVec.getMsbD_eq_getLsbD, BitVec.getLsbD_twoPow, Fin.ext_iff, h1, h2]
  · have : r.val ≠ r'.val := fun h => hr (Fin.ext h.symm)
    simp [this, hr]

@[simp] theorem pixel_clearFb (c : Fin 64) (r : Fin 32) : pixel clearFb c r = false := by
  simp [pixel, clearFb]

/-- Everything one bit of a sprite row can do. -/
theorem drawBit_cases (row : Byte) (ox : Fin 64) (q : Fin 32) (cv : Canvas) (j : Nat) :
    (row.getLsbD (7 - j) = true ∧
      drawBit row ox q cv j = (togglePixel cv.1 (wrapCol ox j) q, cv.2 || pixel cv.1 (wrapCol ox j) q)) ∨
    (row.getLsbD (7 - j) = false ∧ drawBit row ox q cv j = cv) := by
  cases h : row.getLsbD (7 - j) <;> simp [drawBit, h]

/-! ### The sprite loops in closed form. No pixel is toggled twice in one draw (R263). -/

/-- A set bit of a sprite row, among the bit numbers `js`, falls on column c. -/
def bitsHit (row : Byte) (ox : Fin 64) (js : List Nat) (c : Fin 64) : Bool :=
  js.any fun j => row.getLsbD (7 - j) && decide (c = wrapCol ox j)

/-- A set bit of a sprite row, among the bit numbers `js`, falls on a set pixel. -/
def bitsCollide (fb : Framebuffer) (row : Byte) (ox : Fin 64) (q : Fin 32) (js : List Nat) : Bool :=
  js.any fun j => row.getLsbD (7 - j) && pixel fb (wrapCol ox j) q

theorem bitsHit_cons (row : Byte) (ox : Fin 64) (j : Nat) (js : List Nat) (c : Fin 64) :
    bitsHit row ox (j :: js) c = (row.getLsbD (7 - j) && decide (c = wrapCol ox j) || bitsHit row ox js c) := rfl

theorem bitsCollide_cons (fb : Framebuffer) (row : Byte) (ox : Fin 64) (q : Fin 32) (j : Nat) (js : List Nat) :
    bitsCollide fb row ox q (j :: js) =
      (row.getLsbD (7 - j) && pixel fb (wrapCol ox j) q || bitsCollide fb row ox q js) := rfl

/-- The eight bit numbers of a row. -/
abbrev bitNumbers : List Nat := [0, 1, 2, 3, 4, 5, 6, 7]

/-- A set bit of the rows, the first of them being row number r0, falls on column c, row q. -/
def rowsHit (ox : Fin 64) (oy : Fin 32) (c : Fin 64) (q : Fin 32) : Nat → List Byte → Bool
  | _, [] => false
  | r0, row :: rest => decide (q = wrapRow oy r0) && bitsHit row ox bitNumbers c || rowsHit ox oy c q (r0 + 1) rest

/-- A set bit of the rows falls on a set pixel. -/
def rowsCollide (fb : Framebuffer) (ox : Fin 64) (oy : Fin 32) : Nat → List Byte → Bool
  | _, [] => false
  | r0, row :: rest => bitsCollide fb row ox (wrapRow oy r0) bitNumbers || rowsCollide fb ox oy (r0 + 1) rest

theorem wrapCol_inj {ox : Fin 64} {i j : Nat} (hi : i < 64) (hj : j < 64) (h : wrapCol ox i = wrapCol ox j) :
    i = j := by
  have := congrArg Fin.val h
  simp only [wrapCol, Fin.ofNat_eq_cast, Fin.val_natCast] at this
  omega

theorem wrapRow_ne {oy : Fin 32} {i j : Nat} (h1 : i < j) (h2 : j < i + 32) : wrapRow oy j ≠ wrapRow oy i := by
  intro h
  have := congrArg Fin.val h
  simp only [wrapRow, Fin.ofNat_eq_cast, Fin.val_natCast] at this
  omega

/-- The loop over the bits of one row. -/
theorem foldl_drawBit (row : Byte) (ox : Fin 64) (q : Fin 32) (js : List Nat) (hn : js.Nodup) (hl : ∀ j ∈ js, j < 64)
    (cv : Canvas) :
    (∀ c r, pixel (js.foldl (drawBit row ox q) cv).1 c r =
      (pixel cv.1 c r ^^ (decide (r = q) && bitsHit row ox js c))) ∧
    (js.foldl (drawBit row ox q) cv).2 = (cv.2 || bitsCollide cv.1 row ox q js) := by
  induction js generalizing cv with
  | nil => simp [bitsHit, bitsCollide]
  | cons j js ih =>
    obtain ⟨hj, hn⟩ := List.nodup_cons.1 hn
    have hlt : ∀ k ∈ js, k < 64 := fun k hk => hl k (List.mem_cons_of_mem _ hk)
    have hne : ∀ k ∈ js, wrapCol ox k ≠ wrapCol ox j :=
      fun k hk h => hj (wrapCol_inj (hlt k hk) (hl j List.mem_cons_self) h ▸ hk)
    obtain ⟨h1, h2⟩ := ih hn hlt (drawBit row ox q cv j)
    simp only [List.foldl_cons, h1, h2]
    rcases drawBit_cases row ox q cv j with ⟨hb, he⟩ | ⟨hb, he⟩
    · have hcol : bitsCollide (togglePixel cv.1 (wrapCol ox j) q) row ox q js = bitsCollide cv.1 row ox q js := by
        unfold bitsCollide
        rw [Bool.eq_iff_iff, List.any_eq_true, List.any_eq_true]
        refine exists_congr fun k => and_congr_right fun hk => ?_
        simp [pixel_togglePixel, hne k hk]
      have hself : bitsHit row ox js (wrapCol ox j) = false := by
        rw [bitsHit, List.any_eq_false]
        intro k hk
        simp [(hne k hk).symm]
      refine ⟨fun c r => ?_, by simp [he, hcol, bitsCollide_cons, hb, Bool.or_assoc]⟩
      rw [he, pixel_togglePixel]
      by_cases hc : c = wrapCol ox j
      · subst hc
        by_cases hr : r = q <;> simp [hself, hr, bitsHit_cons, hb]
      · by_cases hr : r = q <;> simp [hr, hc, bitsHit_cons]
    · exact ⟨fun c r => by simp [he, bitsHit_cons, hb], by simp [he, bitsCollide_cons, hb]⟩

/-- One sprite row. -/
theorem drawRow_law (row : Byte) (ox : Fin 64) (q : Fin 32) (cv : Canvas) :
    (∀ c r, pixel (drawRow row ox q cv).1 c r =
      (pixel cv.1 c r ^^ (decide (r = q) && bitsHit row ox bitNumbers c))) ∧
    (drawRow row ox q cv).2 = (cv.2 || bitsCollide cv.1 row ox q bitNumbers) :=
  foldl_drawBit row ox q bitNumbers (by decide) (by decide) cv

/-- Rows below row number r0 touch no pixel of row number r0. -/
theorem rowsHit_below (ox : Fin 64) (oy : Fin 32) (c : Fin 64) (rows : List Byte) {r0 r : Nat} (h1 : r0 < r)
    (h2 : r + rows.length ≤ r0 + 32) : rowsHit ox oy c (wrapRow oy r0) r rows = false := by
  induction rows generalizing r with
  | nil => rfl
  | cons row rest ih =>
    simp only [List.length_cons] at h2
    simp [rowsHit, (wrapRow_ne (oy := oy) h1 (by omega)).symm, ih (r := r + 1) (by omega) (by omega)]

/-- A collision of later rows is not changed by what an earlier row drew. -/
theorem rowsCollide_congr {f g : Framebuffer} (ox : Fin 64) (oy : Fin 32) (rows : List Byte) (r : Nat)
    (h : ∀ k < rows.length, ∀ c, pixel f c (wrapRow oy (r + k)) = pixel g c (wrapRow oy (r + k))) :
    rowsCollide f ox oy r rows = rowsCollide g ox oy r rows := by
  induction rows generalizing r with
  | nil => rfl
  | cons row rest ih =>
    have h0 : ∀ c, pixel f c (wrapRow oy r) = pixel g c (wrapRow oy r) := h 0 (by simp)
    have hr := ih (r + 1) fun k hk c => by
      have := h (k + 1) (by simpa using hk) c
      rwa [show r + (k + 1) = r + 1 + k by omega] at this
    simp only [rowsCollide, bitsCollide, h0, hr]

/-- The loop over the rows of a sprite of at most 32 rows. -/
theorem drawRows_law (ox : Fin 64) (oy : Fin 32) (rows : List Byte) (r0 : Nat) (hl : rows.length ≤ 32) (cv : Canvas) :
    (∀ c q, pixel (drawRows ox oy r0 rows cv).1 c q = (pixel cv.1 c q ^^ rowsHit ox oy c q r0 rows)) ∧
    (drawRows ox oy r0 rows cv).2 = (cv.2 || rowsCollide cv.1 ox oy r0 rows) := by
  induction rows generalizing r0 cv with
  | nil => simp [drawRows, rowsHit, rowsCollide]
  | cons row rest ih =>
    simp only [List.length_cons] at hl
    obtain ⟨h1, h2⟩ := ih (r0 + 1) (by omega) (drawRow row ox (wrapRow oy r0) cv)
    obtain ⟨g1, g2⟩ := drawRow_law row ox (wrapRow oy r0) cv
    simp only [drawRows, h1, h2, g1, g2, rowsHit]
    constructor
    · intro c q
      by_cases hq : q = wrapRow oy r0
      · subst hq
        simp [rowsHit_below ox oy c rest (show r0 < r0 + 1 by omega) (by omega)]
      · simp [hq]
    · rw [rowsCollide_congr (g := cv.1) ox oy rest (r0 + 1), rowsCollide, Bool.or_assoc]
      intro k hk c
      simp [g1, wrapRow_ne (oy := oy) (show r0 < r0 + 1 + k by omega) (by omega)]

theorem rowsHit_iff (ox : Fin 64) (oy : Fin 32) (c : Fin 64) (q : Fin 32) (r0 : Nat) (rows : List Byte) :
    rowsHit ox oy c q r0 rows = true ↔
      ∃ k, ∃ h : k < rows.length, q = wrapRow oy (r0 + k) ∧
        ∃ j < 8, rows[k].getLsbD (7 - j) = true ∧ c = wrapCol ox j := by
  have hm : ∀ j, j ∈ bitNumbers ↔ j < 8 := by
    intro j
    simp
    omega
  induction rows generalizing r0 with
  | nil => simp [rowsHit]
  | cons row rest ih =>
    simp only [rowsHit, bitsHit, Bool.or_eq_true, Bool.and_eq_true, decide_eq_true_eq, List.any_eq_true, ih, hm]
    constructor
    · rintro (⟨hq, j, hj, hb⟩ | ⟨k, hk, hq, hb⟩)
      · exact ⟨0, by simp, hq, j, hj, hb⟩
      · exact ⟨k + 1, by simpa using hk, by rwa [show r0 + (k + 1) = r0 + 1 + k by omega], hb⟩
    · rintro ⟨k, hk, hq, hb⟩
      cases k with
      | zero => exact .inl ⟨hq, hb⟩
      | succ k =>
        exact .inr ⟨k, by simpa using hk, by rwa [show r0 + 1 + k = r0 + (k + 1) by omega], hb⟩

theorem rowsCollide_iff (fb : Framebuffer) (ox : Fin 64) (oy : Fin 32) (r0 : Nat) (rows : List Byte) :
    rowsCollide fb ox oy r0 rows = true ↔ ∃ c q, rowsHit ox oy c q r0 rows = true ∧ pixel fb c q = true := by
  induction rows generalizing r0 with
  | nil => simp [rowsCollide, rowsHit]
  | cons row rest ih =>
    simp only [rowsCollide, rowsHit, bitsCollide, bitsHit, Bool.or_eq_true, Bool.and_eq_true, decide_eq_true_eq,
      List.any_eq_true, ih]
    constructor
    · rintro (⟨j, hj, hb, hp⟩ | ⟨c, q, hh, hp⟩)
      · exact ⟨_, _, .inl ⟨rfl, j, hj, hb, rfl⟩, hp⟩
      · exact ⟨c, q, .inr hh, hp⟩
    · rintro ⟨c, q, ⟨rfl, j, hj, hb, rfl⟩ | hh, hp⟩
      · exact .inl ⟨j, hj, hb, hp⟩
      · exact .inr ⟨c, q, hh, hp⟩

/-- Everything a sprite of at most 32 rows draws: it inverts the pixels its set bits fall on, and collides where one of
them was set. -/
theorem drawSprite_law (fb : Framebuffer) (ox : Fin 64) (oy : Fin 32) (rows : List Byte) (hl : rows.length ≤ 32) :
    (∀ c q, pixel (drawSprite fb ox oy rows).1 c q = (pixel fb c q ^^ rowsHit ox oy c q 0 rows)) ∧
    ((drawSprite fb ox oy rows).2 = true ↔ ∃ c q, rowsHit ox oy c q 0 rows = true ∧ pixel fb c q = true) := by
  obtain ⟨h1, h2⟩ := drawRows_law ox oy rows 0 hl (fb, false)
  refine ⟨h1, ?_⟩
  rw [drawSprite, h2, Bool.false_or, rowsCollide_iff]

/-- An empty sprite draws nothing. -/
@[simp] theorem drawSprite_nil (fb : Framebuffer) (ox : Fin 64) (oy : Fin 32) : drawSprite fb ox oy [] = (fb, false) :=
  rfl

/-- Two framebuffers with the same pixels are the same. -/
theorem framebuffer_ext {f g : Framebuffer} (h : ∀ c r, pixel f c r = pixel g c r) : f = g := by
  apply Vector.ext
  intro k hk
  apply BitVec.eq_of_getMsbD_eq
  intro c hc
  exact h ⟨c, hc⟩ ⟨k, hk⟩

end Sys2Proof.Machine
end

