-- ==== Sys2Proof/Laws/Memory.lean ====
section
/-! SUPPORT. Memory: a read after a write, what a block write leaves alone, and that every operation keeps the canonical
form. -/

namespace Sys2Proof.Machine

/-! ### The listed cells -/

theorem readCells_insertCell (f : Font) (l : List Host.Cell) (a c : Nat) (b : Byte) :
    readCells f (insertCell l a b) c = if c = a then b else readCells f l c := by
  induction l with
  | nil => simp [insertCell, readCells, eq_comm]
  | cons x rest ih =>
    obtain ⟨k, d⟩ := x
    simp only [insertCell]
    split
    · simp [readCells, eq_comm]
    · split
      · next h =>
        subst h
        by_cases hc : c = k
        · simp [readCells, hc]
        · simp [readCells, hc, Ne.symm hc]
      · next h =>
        simp only [readCells, ih]
        split
        · next h2 => subst h2; simp [h]
        · rfl

theorem readCells_eraseCell (f : Font) (l : List Host.Cell) (a c : Nat) :
    readCells f (eraseCell l a) c = if c = a then unlisted f a else readCells f l c := by
  induction l with
  | nil => simp [eraseCell, readCells]; intro h; rw [h]
  | cons x rest ih =>
    obtain ⟨k, d⟩ := x
    simp only [eraseCell, List.filter_cons] at ih ⊢
    by_cases h : k = a
    · subst h
      simp only [bne_self_eq_false, Bool.false_eq_true, if_false, ih, readCells]
      split
      · rfl
      · next h2 => simp [Ne.symm h2]
    · simp only [bne_iff_ne, ne_eq, h, not_false_eq_true, if_true, readCells, ih]
      split
      · next h2 => subst h2; simp [h]
      · rfl

theorem wfCells_cons {f : Font} {a : Nat} {b : Byte} {rest : List Host.Cell} :
    wfCells f ((a, b) :: rest) = true ↔
      a < Config.memSize ∧ b ≠ unlisted f a ∧ (∀ c ∈ rest, a < c.1) ∧ wfCells f rest = true := by
  simp [wfCells, and_assoc]

theorem wfCells_eraseCell {f : Font} {l : List Host.Cell} (h : wfCells f l = true) (a : Nat) :
    wfCells f (eraseCell l a) = true := by
  induction l with
  | nil => rfl
  | cons x rest ih =>
    obtain ⟨k, d⟩ := x
    rw [wfCells_cons] at h
    simp only [eraseCell, List.filter_cons] at ih ⊢
    split
    · rw [wfCells_cons]
      exact ⟨h.1, h.2.1, fun c hc => h.2.2.1 c (List.mem_of_mem_filter hc), ih h.2.2.2⟩
    · exact ih h.2.2.2

theorem mem_insertCell {l : List Host.Cell} {a : Nat} {b : Byte} {c : Host.Cell} (h : c ∈ insertCell l a b) :
    c = (a, b) ∨ c ∈ l := by
  induction l with
  | nil => simpa [insertCell] using h
  | cons x rest ih =>
    obtain ⟨k, d⟩ := x
    simp only [insertCell] at h
    split at h
    · simpa using h
    · split at h
      · rcases List.mem_cons.mp h with h | h
        · exact .inl h
        · exact .inr (List.mem_cons_of_mem _ h)
      · rcases List.mem_cons.mp h with h | h
        · exact .inr (h ▸ List.mem_cons_self)
        · exact (ih h).imp id (List.mem_cons_of_mem _)

theorem wfCells_insertCell {f : Font} {l : List Host.Cell} (h : wfCells f l = true) {a : Nat} (ha : a < Config.memSize)
    {b : Byte} (hb : b ≠ unlisted f a) : wfCells f (insertCell l a b) = true := by
  induction l with
  | nil => simp [insertCell, wfCells, ha, hb]
  | cons x rest ih =>
    obtain ⟨k, d⟩ := x
    have h' := wfCells_cons.mp h
    simp only [insertCell]
    split
    · next hlt =>
      rw [wfCells_cons]
      refine ⟨ha, hb, fun c hc => ?_, h⟩
      rcases List.mem_cons.mp hc with rfl | hc
      · exact hlt
      · exact hlt.trans (h'.2.2.1 c hc)
    · split
      · next heq =>
        subst heq
        exact wfCells_cons.mpr ⟨ha, hb, h'.2.2.1, h'.2.2.2⟩
      · next h1 h2 =>
        rw [wfCells_cons]
        refine ⟨h'.1, h'.2.1, fun c hc => ?_, ih h'.2.2.2⟩
        rcases mem_insertCell hc with rfl | hc
        · show k < a
          omega
        · exact h'.2.2.1 c hc

/-! ### Memory -/

/-- What an unlisted address of the font block reads as. -/
theorem unlisted_font (f : Font) {a : Nat} (h : a < 0x050) : f[a]? = some (unlisted f a) := by
  have h' : a < Config.fontSize := h
  simp [unlisted, h']

/-- What an unlisted address above the font block reads as. -/
theorem unlisted_zero (f : Font) {a : Nat} (h : 0x050 ≤ a) : unlisted f a = 0x00#8 :=
  dif_neg (Nat.not_lt.2 h)

/-- Memory with nothing listed. -/
@[simp] theorem Memory.read_nil (f : Font) (a : Nat) : Memory.read { font := f, cells := [] } a = unlisted f a := rfl

/-- No write changes the parameter FONT. -/
@[simp] theorem Memory.font_write (m : Memory) (a : Nat) (b : Byte) : (m.write a b).font = m.font := rfl

/-- No block write changes the parameter FONT. -/
@[simp] theorem Memory.font_writeBlock (m : Memory) (a : Nat) (bs : List Byte) : (m.writeBlock a bs).font = m.font := by
  induction bs generalizing m a with
  | nil => rfl
  | cons b rest ih => rw [Memory.writeBlock, ih, Memory.font_write]

/-- A read after a write: the byte written at its address, and every other address as before. In every memory. -/
theorem Memory.read_write (m : Memory) (a c : Nat) (b : Byte) :
    Memory.read (Memory.write m a b) c = if c = a then b else Memory.read m c := by
  unfold Memory.write Memory.read
  split
  · next h => rw [readCells_eraseCell]; simp [h]
  · exact readCells_insertCell m.font m.cells a c b

/-- A write inside memory keeps the canonical form. -/
theorem Memory.wf_write {m : Memory} (h : Memory.wf m = true) {a : Nat} (ha : a < Config.memSize) (b : Byte) :
    Memory.wf (Memory.write m a b) = true := by
  unfold Memory.write Memory.wf
  split
  · exact wfCells_eraseCell h a
  · next hb => exact wfCells_insertCell h ha hb

/-- A block write inside memory keeps the canonical form. -/
theorem Memory.wf_writeBlock {m : Memory} (h : Memory.wf m = true) {a : Nat} {bs : List Byte}
    (ha : a + bs.length ≤ Config.memSize) : Memory.wf (Memory.writeBlock m a bs) = true := by
  induction bs generalizing m a with
  | nil => exact h
  | cons b rest ih =>
    simp only [List.length_cons] at ha
    exact ih (Memory.wf_write h (by omega) b) (by omega)

/-- A read after a block write: the block's byte inside it, and every other address as before. -/
theorem Memory.read_writeBlock (m : Memory) (a : Nat) (bs : List Byte) (c : Nat) :
    Memory.read (Memory.writeBlock m a bs) c =
      if h : a ≤ c ∧ c - a < bs.length then bs[c - a] else Memory.read m c := by
  induction bs generalizing m a with
  | nil => simp [Memory.writeBlock]
  | cons b rest ih =>
    rw [Memory.writeBlock, ih]
    by_cases h1 : a + 1 ≤ c ∧ c - (a + 1) < rest.length
    · have h2 : a ≤ c ∧ c - a < (b :: rest).length := by simp; omega
      have h3 : c - a = (c - (a + 1)) + 1 := by omega
      simp [h1, h2, h3]
    · by_cases h4 : c = a
      · subst h4
        have h5 : ¬(c + 1 ≤ c) := by omega
        simp [h5, Memory.read_write]
      · have h2 : ¬(a ≤ c ∧ c - a < (b :: rest).length) := by simp; omega
        rw [dif_neg h1, dif_neg h2, Memory.read_write, if_neg h4]

/-- The memory after reset is in canonical form, for every FONT. -/
theorem Memory.wf_reset (f : Font) : Memory.wf (State.resetWith f).mem = true := rfl

@[simp] theorem Memory.length_readBlock (m : Memory) (a n : Nat) : (Memory.readBlock m a n).length = n := by
  simp [Memory.readBlock]

theorem Memory.getElem_readBlock (m : Memory) (a n k : Nat) (h : k < (Memory.readBlock m a n).length) :
    (Memory.readBlock m a n)[k] = Memory.read m (a + k) := by
  simp [Memory.readBlock]

end Sys2Proof.Machine
end

