-- ==== Sys2Proof/Laws/PerInstr.lean ====
section
/-! SUPPORT. Per instruction: its encoded word matches its row of spec/opcode_table.json, whose `mask` and `match` stand
here as the table gives them. -/

namespace Sys2Proof.Laws

/-- The fixed bits of an instruction's row: its mask and its match. -/
def RowMatch.row : Instr → Word × Word
  | .cls => (0xFFFF, 0x00E0)
  | .ret => (0xFFFF, 0x00EE)
  | .jp _ => (0xF000, 0x1000)
  | .call _ => (0xF000, 0x2000)
  | .seImm _ _ => (0xF000, 0x3000)
  | .sneImm _ _ => (0xF000, 0x4000)
  | .seReg _ _ _ => (0xF000, 0x5000)
  | .ldImm _ _ => (0xF000, 0x6000)
  | .addImm _ _ => (0xF000, 0x7000)
  | .ldReg _ _ => (0xF00F, 0x8000)
  | .orReg _ _ => (0xF00F, 0x8001)
  | .andReg _ _ => (0xF00F, 0x8002)
  | .xorReg _ _ => (0xF00F, 0x8003)
  | .addReg _ _ => (0xF00F, 0x8004)
  | .sub _ _ => (0xF00F, 0x8005)
  | .shr _ _ => (0xF00F, 0x8006)
  | .subn _ _ => (0xF00F, 0x8007)
  | .shl _ _ => (0xF00F, 0x800E)
  | .sneReg _ _ _ => (0xF000, 0x9000)
  | .ldI _ => (0xF000, 0xA000)
  | .jpV0 _ => (0xF000, 0xB000)
  | .rnd _ _ => (0xF000, 0xC000)
  | .drw _ _ _ => (0xF000, 0xD000)
  | .skp _ => (0xF0FF, 0xE09E)
  | .sknp _ => (0xF0FF, 0xE0A1)
  | .ldVxDt _ => (0xF0FF, 0xF007)
  | .ldVxK _ => (0xF0FF, 0xF00A)
  | .ldDtVx _ => (0xF0FF, 0xF015)
  | .ldStVx _ => (0xF0FF, 0xF018)
  | .addI _ => (0xF0FF, 0xF01E)
  | .ldF _ => (0xF0FF, 0xF029)
  | .ldB _ => (0xF0FF, 0xF033)
  | .ldMemVx _ => (0xF0FF, 0xF055)
  | .ldVxMem _ => (0xF0FF, 0xF065)

/-- An encoded instruction has its row's fixed bits. -/
def RowMatch.Statement (i : Instr) : Prop := encode i &&& (RowMatch.row i).1 = (RowMatch.row i).2

theorem and_all4 (a : BitVec 4) : a &&& 15#4 = a := BitVec.and_allOnes

theorem and_all8 (a : BitVec 8) : a &&& 255#8 = a := BitVec.and_allOnes

theorem wordNNN_and (cat : BitVec 4) (nnn : Addr12) : wordNNN cat nnn &&& 0xF000#16 = wordNNN cat 0#12 := by
  rw [show (0xF000#16) = 0xF#4 ++ 0x000#12 from rfl, wordNNN, BitVec.and_append, wordNNN]
  simp [and_all4]

theorem wordXKK_and_cat (cat : BitVec 4) (x : Reg) (kk : Byte) :
    wordXKK cat x kk &&& 0xF000#16 = wordXKK cat 0 0#8 := by
  rw [show (0xF000#16) = 0xF#4 ++ 0x0#4 ++ 0x00#8 from rfl, wordXKK, BitVec.and_append, BitVec.and_append, wordXKK]
  simp [and_all4]

theorem wordXKK_and_sel (cat : BitVec 4) (x : Reg) (kk : Byte) :
    wordXKK cat x kk &&& 0xF0FF#16 = wordXKK cat 0 kk := by
  rw [show (0xF0FF#16) = 0xF#4 ++ 0x0#4 ++ 0xFF#8 from rfl, wordXKK, BitVec.and_append, BitVec.and_append, wordXKK]
  simp [and_all4, and_all8]

theorem wordXYN_and_cat (cat : BitVec 4) (x y : Reg) (n : Nibble) :
    wordXYN cat x y n &&& 0xF000#16 = wordXYN cat 0 0 0#4 := by
  rw [show (0xF000#16) = 0xF#4 ++ 0x0#4 ++ 0x0#4 ++ 0x0#4 from rfl, wordXYN, BitVec.and_append, BitVec.and_append,
    BitVec.and_append, wordXYN]
  simp [and_all4]

theorem wordXYN_and_sel (cat : BitVec 4) (x y : Reg) (n : Nibble) :
    wordXYN cat x y n &&& 0xF00F#16 = wordXYN cat 0 0 n := by
  rw [show (0xF00F#16) = 0xF#4 ++ 0x0#4 ++ 0x0#4 ++ 0xF#4 from rfl, wordXYN, BitVec.and_append, BitVec.and_append,
    BitVec.and_append, wordXYN]
  simp [and_all4]

theorem RowMatch.cls : RowMatch.Statement (.cls) := rfl
theorem RowMatch.ret : RowMatch.Statement (.ret) := rfl
theorem RowMatch.jp (nnn : Addr12) : RowMatch.Statement (.jp nnn) := (wordNNN_and _ _).trans rfl
theorem RowMatch.call (nnn : Addr12) : RowMatch.Statement (.call nnn) := (wordNNN_and _ _).trans rfl
theorem RowMatch.seImm (x : Reg) (kk : Byte) : RowMatch.Statement (.seImm x kk) := (wordXKK_and_cat _ _ _).trans rfl
theorem RowMatch.sneImm (x : Reg) (kk : Byte) : RowMatch.Statement (.sneImm x kk) := (wordXKK_and_cat _ _ _).trans rfl
theorem RowMatch.seReg (x : Reg) (y : Reg) (n : Nibble) : RowMatch.Statement (.seReg x y n) := (wordXYN_and_cat _ _ _ _).trans rfl
theorem RowMatch.ldImm (x : Reg) (kk : Byte) : RowMatch.Statement (.ldImm x kk) := (wordXKK_and_cat _ _ _).trans rfl
theorem RowMatch.addImm (x : Reg) (kk : Byte) : RowMatch.Statement (.addImm x kk) := (wordXKK_and_cat _ _ _).trans rfl
theorem RowMatch.ldReg (x : Reg) (y : Reg) : RowMatch.Statement (.ldReg x y) := (wordXYN_and_sel _ _ _ _).trans rfl
theorem RowMatch.orReg (x : Reg) (y : Reg) : RowMatch.Statement (.orReg x y) := (wordXYN_and_sel _ _ _ _).trans rfl
theorem RowMatch.andReg (x : Reg) (y : Reg) : RowMatch.Statement (.andReg x y) := (wordXYN_and_sel _ _ _ _).trans rfl
theorem RowMatch.xorReg (x : Reg) (y : Reg) : RowMatch.Statement (.xorReg x y) := (wordXYN_and_sel _ _ _ _).trans rfl
theorem RowMatch.addReg (x : Reg) (y : Reg) : RowMatch.Statement (.addReg x y) := (wordXYN_and_sel _ _ _ _).trans rfl
theorem RowMatch.sub (x : Reg) (y : Reg) : RowMatch.Statement (.sub x y) := (wordXYN_and_sel _ _ _ _).trans rfl
theorem RowMatch.shr (x : Reg) (y : Reg) : RowMatch.Statement (.shr x y) := (wordXYN_and_sel _ _ _ _).trans rfl
theorem RowMatch.subn (x : Reg) (y : Reg) : RowMatch.Statement (.subn x y) := (wordXYN_and_sel _ _ _ _).trans rfl
theorem RowMatch.shl (x : Reg) (y : Reg) : RowMatch.Statement (.shl x y) := (wordXYN_and_sel _ _ _ _).trans rfl
theorem RowMatch.sneReg (x : Reg) (y : Reg) (n : Nibble) : RowMatch.Statement (.sneReg x y n) := (wordXYN_and_cat _ _ _ _).trans rfl
theorem RowMatch.ldI (nnn : Addr12) : RowMatch.Statement (.ldI nnn) := (wordNNN_and _ _).trans rfl
theorem RowMatch.jpV0 (nnn : Addr12) : RowMatch.Statement (.jpV0 nnn) := (wordNNN_and _ _).trans rfl
theorem RowMatch.rnd (x : Reg) (kk : Byte) : RowMatch.Statement (.rnd x kk) := (wordXKK_and_cat _ _ _).trans rfl
theorem RowMatch.drw (x : Reg) (y : Reg) (n : Nibble) : RowMatch.Statement (.drw x y n) := (wordXYN_and_cat _ _ _ _).trans rfl
theorem RowMatch.skp (x : Reg) : RowMatch.Statement (.skp x) := (wordXKK_and_sel _ _ _).trans rfl
theorem RowMatch.sknp (x : Reg) : RowMatch.Statement (.sknp x) := (wordXKK_and_sel _ _ _).trans rfl
theorem RowMatch.ldVxDt (x : Reg) : RowMatch.Statement (.ldVxDt x) := (wordXKK_and_sel _ _ _).trans rfl
theorem RowMatch.ldVxK (x : Reg) : RowMatch.Statement (.ldVxK x) := (wordXKK_and_sel _ _ _).trans rfl
theorem RowMatch.ldDtVx (x : Reg) : RowMatch.Statement (.ldDtVx x) := (wordXKK_and_sel _ _ _).trans rfl
theorem RowMatch.ldStVx (x : Reg) : RowMatch.Statement (.ldStVx x) := (wordXKK_and_sel _ _ _).trans rfl
theorem RowMatch.addI (x : Reg) : RowMatch.Statement (.addI x) := (wordXKK_and_sel _ _ _).trans rfl
theorem RowMatch.ldF (x : Reg) : RowMatch.Statement (.ldF x) := (wordXKK_and_sel _ _ _).trans rfl
theorem RowMatch.ldB (x : Reg) : RowMatch.Statement (.ldB x) := (wordXKK_and_sel _ _ _).trans rfl
theorem RowMatch.ldMemVx (x : Reg) : RowMatch.Statement (.ldMemVx x) := (wordXKK_and_sel _ _ _).trans rfl
theorem RowMatch.ldVxMem (x : Reg) : RowMatch.Statement (.ldVxMem x) := (wordXKK_and_sel _ _ _).trans rfl

end Sys2Proof.Laws
end

