-- ==== Sys2Proof/Laws/Registers.lean ====
section
/-! SUPPORT. Reading registers after the operations that write them. -/

namespace Sys2Proof.Machine

variable (s : State)

/-- A write of V[r] is what V[r] then reads, and no other register changes. -/
theorem State.reg_setReg (r q : Reg) (b : Byte) : (s.setReg r b).reg q = if q = r then b else s.reg q := by
  simp only [State.reg, State.setReg_v, Vector.getElem_set, Fin.ext_iff, eq_comm]

@[simp] theorem State.reg_setReg_same (r : Reg) (b : Byte) : (s.setReg r b).reg r = b := by simp [State.reg_setReg]

theorem State.reg_setReg_other {r q : Reg} (h : q ≠ r) (b : Byte) : (s.setReg r b).reg q = s.reg q := by
  simp [State.reg_setReg, h]

/-- A state with the same V reads the same registers. -/
theorem State.reg_congr {s t : State} (h : t.v = s.v) (r : Reg) : t.reg r = s.reg r := by simp [State.reg, h]

@[simp] theorem State.reg_setIndex (w : Word) (r : Reg) : (s.setIndex w).reg r = s.reg r := rfl
@[simp] theorem State.reg_setDt (b : Byte) (r : Reg) : (s.setDt b).reg r = s.reg r := rfl
@[simp] theorem State.reg_setSt (b : Byte) (r : Reg) : (s.setSt b).reg r = s.reg r := rfl
@[simp] theorem State.reg_setMem (m : Memory) (r : Reg) : (s.setMem m).reg r = s.reg r := rfl
@[simp] theorem State.reg_setFb (f : Framebuffer) (r : Reg) : (s.setFb f).reg r = s.reg r := rfl
@[simp] theorem State.reg_drawn (r : Reg) : s.drawn.reg r = s.reg r := rfl
@[simp] theorem State.reg_push (w : Word) (r : Reg) : (s.push w).reg r = s.reg r := rfl
@[simp] theorem State.reg_pop (r : Reg) : s.pop.reg r = s.reg r := rfl
@[simp] theorem State.reg_setPc (w : Word) (r : Reg) : (s.setPc w).reg r = s.reg r := rfl
@[simp] theorem State.reg_start (r : Reg) : s.start.reg r = s.reg r := rfl
@[simp] theorem State.reg_takeFault (e : Raise) (w : Word) (r : Reg) : (s.takeFault e w).reg r = s.reg r := rfl

/-- Writing bytes from V[k] on: register j receives byte j - k where there is one, and keeps its value elsewhere. -/
theorem getElem_setRegs (v : Vector Byte 16) (k : Nat) (bs : List Byte) (j : Nat) (hj : j < 16) :
    (setRegs v k bs)[j] = if h : k ≤ j ∧ j - k < bs.length then bs[j - k] else v[j] := by
  induction bs generalizing v k with
  | nil => simp [setRegs]
  | cons b rest ih =>
    rw [setRegs, ih]
    by_cases h1 : k + 1 ≤ j ∧ j - (k + 1) < rest.length
    · have h2 : k ≤ j ∧ j - k < (b :: rest).length := by simp; omega
      have h3 : j - k = (j - (k + 1)) + 1 := by omega
      simp [h1, h2, h3]
    · by_cases h4 : k = j
      · subst h4
        have h5 : ¬(k + 1 ≤ k) := by omega
        simp
      · have h2 : ¬(k ≤ j ∧ j - k < (b :: rest).length) := by simp; omega
        rw [dif_neg h1, dif_neg h2, Vector.getElem_setIfInBounds_ne _ h4]

/-- V[0], V[1], ... after a block load. -/
theorem State.reg_loadRegs (bs : List Byte) (r : Reg) :
    (s.loadRegs bs).reg r = if h : r.val < bs.length then bs[r.val] else s.reg r := by
  simp [State.reg, getElem_setRegs]

/-- The block of Fx55 holds V[0] to V[x]. -/
@[simp] theorem State.length_regBlock (x : Reg) : (s.regBlock x).length = blockLen x := by
  have := x.isLt
  simp [State.regBlock, blockLen]

theorem State.getElem_regBlock (x : Reg) (k : Nat) (h : k < (s.regBlock x).length) :
    (s.regBlock x)[k] = s.v[k]'(by have := x.isLt; simp [blockLen] at h; omega) := by
  simp [State.regBlock]

/-- The two phases of a flag-writing instruction: V[x] ends with the result, computed after the flag was written, and VF
with the flag where x is not VF. -/
theorem reg_flagThenResult (flag : Byte) (x : Reg) (result : State → Byte) (q : Reg) :
    (flagThenResult flag x result s).reg q =
      if q = x then result (s.setReg vf flag) else if q = vf then flag else s.reg q := by
  simp [flagThenResult, State.reg_setReg]

/-- The two phases write V and nothing else. -/
theorem flagThenResult_eq (flag : Byte) (x : Reg) (result : State → Byte) :
    flagThenResult flag x result s = { s with v := (flagThenResult flag x result s).v } := rfl

end Sys2Proof.Machine
end

