-- ==== Sys2Proof/Laws/Step.lean ====
section
/-! SUPPORT. Everything the front of a step and a step can do. -/

namespace Sys2Proof.Machine

/-- How a step ends without an instruction: in FAULTED, at the fetch, or at the decoder. -/
theorem front_error {s t : State} (h : s.front = .error t) :
    (s.faulted = true ∧ t = s) ∨
    (s.faulted = false ∧ ∃ r, fetchOffence s.pc = some r ∧ t = s.takeFault r 0x0000#16) ∨
    (s.faulted = false ∧ fetchOffence s.pc = none ∧ (∃ e, decode (s.wordAt s.pc.toNat) = .error e) ∧
      t = s.takeFault ⟨.illegalOpcode, s.pc⟩ (s.wordAt s.pc.toNat)) := by
  unfold State.front at h
  split at h
  · next hf => exact .inl ⟨hf, (Except.error.inj h).symm⟩
  · next hf =>
    have hf : s.faulted = false := by simpa using hf
    split at h
    · next r hr => exact .inr (.inl ⟨hf, r, hr, (Except.error.inj h).symm⟩)
    · next hr =>
      split at h
      · next e he => exact .inr (.inr ⟨hf, hr, ⟨e, he⟩, (Except.error.inj h).symm⟩)
      · cases h

/-- When a step executes an instruction. -/
theorem front_ok {s : State} {i : Instr} :
    s.front = .ok i ↔ s.faulted = false ∧ fetchOffence s.pc = none ∧ decode (s.wordAt s.pc.toNat) = .ok i := by
  unfold State.front
  cases hf : s.faulted
  · cases ho : fetchOffence s.pc with
    | some r => simp
    | none => cases hd : decode (s.wordAt s.pc.toNat) <;> simp
  · simp

/-- A fetch has no offence exactly at an even PC of at most 0xFFE. -/
theorem fetchOffence_eq_none (pc : Word) : fetchOffence pc = none ↔ pc.getLsbD 0 = false ∧ pc.toNat ≤ 0xFFE := by
  unfold fetchOffence
  cases pc.getLsbD 0 <;> simp

/-- Everything a step can do. -/
theorem step_cases (s : State) :
    (∃ t, s.front = .error t ∧ step s = .next t) ∨ (∃ i, s.front = .ok i ∧ step s = exec i s) := by
  unfold step
  cases s.front with
  | error t => exact .inl ⟨t, rfl, rfl⟩
  | ok i => exact .inr ⟨i, rfl, rfl⟩

/-- Everything an instruction can do to memory: nothing, or one block write at I whose every byte passes the write test. -/
theorem exec_mem {i : Instr} {s t : State} (h : exec i s = .next t) :
    t.mem = s.mem ∨
    ∃ bs, t.mem = s.mem.writeBlock s.dataAddr bs ∧ ∀ k < bs.length, writeOffence (s.dataAddr + k) = none := by
  cases i
  case ret | call | drw | ldVxMem | skp | sknp =>
    rcases guarded_cases h with ⟨r, -, rfl⟩ | ⟨-, he⟩
    · exact .inl rfl
    · cases he
      exact .inl rfl
  case ldB | ldMemVx =>
    rcases guarded_cases h with ⟨r, -, rfl⟩ | ⟨ho, he⟩
    · exact .inl rfl
    · cases he
      rw [firstOffence_eq_none] at ho
      exact .inr ⟨_, rfl, by simpa [bcdDigits] using ho⟩
  case ldVxK =>
    simp only [exec, execLdVxK] at h
    split at h <;> cases h <;> exact .inl rfl
  all_goals
    cases h
    exact .inl rfl

/-- Everything a step can do to memory. -/
theorem step_mem {s t : State} (h : step s = .next t) :
    t.mem = s.mem ∨
    ∃ bs, t.mem = s.mem.writeBlock s.dataAddr bs ∧ ∀ k < bs.length, writeOffence (s.dataAddr + k) = none := by
  rcases step_cases s with ⟨u, h1, h2⟩ | ⟨i, -, h2⟩
  · rw [h2] at h
    cases h
    rcases front_error h1 with ⟨-, rfl⟩ | ⟨-, r, -, rfl⟩ | ⟨-, -, -, rfl⟩ <;> exact .inl rfl
  · rw [h2] at h
    exact exec_mem h

end Sys2Proof.Machine
end

