-- ==== Sys2Proof/Tests/Slice0.lean ====
section
/-! SUPPORT. Tests. The expected values are those of spec/95_test_vectors.md, or a word written out from the encodings of
spec/30_encoding.md. The last part meets the hypotheses of every statement that has some. -/

namespace Sys2Proof.Tests

open Sys2Proof.Machine Sys2Proof.Spec

/-! ### Helpers -/

/-- Registers set one after another. -/
def withRegs (s : State) : List (Reg × Byte) → State
  | [] => s
  | (r, b) :: rest => withRegs (s.setReg r b) rest

/-- The reset state with some registers set. -/
def regs (l : List (Reg × Byte)) : State := withRegs State.reset l

/-- A state with bytes at an address, and I at that address. -/
def withBytes (s : State) (a : Nat) (bs : List Byte) : State :=
  (s.setMem (s.mem.writeBlock a bs)).setIndex (BitVec.ofNat 16 a)

/-- A state with I at an address. -/
def at_ (a : Nat) (s : State) : State := s.setIndex (BitVec.ofNat 16 a)

/-- A key pressed. -/
def press (k : Fin 16) (s : State) : State := s.keyWrite k true

/-- A stack pointer. -/
def withSp (k : Fin 17) (s : State) : State := { s with sp := k }

/-- What one step does with a word at PC. -/
def after (w : Nat) (s : State) (p : State → Bool) : Bool :=
  match step (s.withFetchWord 16 w) with
  | .next t => p t
  | .fault _ => false
  | .refused _ => false

/-- The record of a fault: code, FAULT_PC, FAULT_WORD, FAULT_ADDR, with STARTED and FAULTED set. -/
def record (t : State) : FaultCode × Nat × Nat × Nat × Bool :=
  (t.faultCode, t.faultPc.toNat, t.faultWord.toNat, t.faultAddr.toNat, t.started && t.faulted)

/-- One step faults, with this record, and with everything else as `keep` sees it. -/
def faults (w : Nat) (s : State) (c : FaultCode) (addr : Nat) : Bool :=
  after w s fun t => record t == (c, s.pc.toNat, w, addr, true) && t.pc == s.pc && t.v == s.v && t.index == s.index &&
    t.sp == s.sp && t.fb == s.fb && t.mem == (s.withFetchWord 16 w).mem

/-! ### Well-formedness: each check refuses the first number that its field has no bits for (R81) -/

theorem test_wellFormed_refuses_register : regOfNat? 16 = none ∧ regOfNat? 15 = some 0xF := by decide
theorem test_wellFormed_refuses_immediate : byteOfNat? 256 = none ∧ byteOfNat? 255 = some 0xFF#8 := by decide
theorem test_wellFormed_refuses_nibble : nibbleOfNat? 16 = none ∧ nibbleOfNat? 15 = some 0xF#4 := by decide
theorem test_wellFormed_refuses_address : addrOfNat? 4096 = none ∧ addrOfNat? 4095 = some 0xFFF#12 := by decide
theorem test_wellFormed_accepts : (Instr.drw 15 15 0xF#4).wellFormed = true ∧ (Instr.jp 0xFFF#12).wellFormed = true ∧
    (Instr.rnd 15 0xFF#8).wellFormed = true ∧ (Instr.subn 15 0).wellFormed = true ∧ Instr.ret.wellFormed = true := by
  decide

/-! ### Decoding: every constructor, by a word written out from R82 and R84 -/

theorem test_decode_alu :
    decode 0b0110101000101111#16 = .ok (.ldImm 0xA 0x2F#8) ∧ decode 0b0111001100000011#16 = .ok (.addImm 0x3 0x03#8) ∧
    decode 0b1000000100100000#16 = .ok (.ldReg 0x1 0x2) ∧ decode 0b1000000100100001#16 = .ok (.orReg 0x1 0x2) ∧
    decode 0b1000000100100010#16 = .ok (.andReg 0x1 0x2) ∧ decode 0b1000000100100011#16 = .ok (.xorReg 0x1 0x2) ∧
    decode 0b1000000100100100#16 = .ok (.addReg 0x1 0x2) ∧ decode 0b1000111100010101#16 = .ok (.sub 0xF 0x1) ∧
    decode 0b1000000011110110#16 = .ok (.shr 0x0 0xF) ∧ decode 0b1000010000110111#16 = .ok (.subn 0x4 0x3) ∧
    decode 0b1000011001011110#16 = .ok (.shl 0x6 0x5) ∧ decode 0b1100000010101011#16 = .ok (.rnd 0x0 0xAB#8) := by
  decide

theorem test_decode_control :
    decode 0b0000000011101110#16 = .ok .ret ∧ decode 0b0001001000110100#16 = .ok (.jp 0x234#12) ∧
    decode 0b0010001000001000#16 = .ok (.call 0x208#12) ∧ decode 0b0011000000000101#16 = .ok (.seImm 0x0 0x05#8) ∧
    decode 0b0100000100000111#16 = .ok (.sneImm 0x1 0x07#8) ∧
    decode 0b0101000100100011#16 = .ok (.seReg 0x1 0x2 0x3#4) ∧
    decode 0b1001000100101111#16 = .ok (.sneReg 0x1 0x2 0xF#4) ∧ decode 0b1011001000000110#16 = .ok (.jpV0 0x206#12) := by
  decide

theorem test_decode_memory :
    decode 0b1010001100000000#16 = .ok (.ldI 0x300#12) ∧ decode 0b1111001000011110#16 = .ok (.addI 0x2) ∧
    decode 0b1111000100101001#16 = .ok (.ldF 0x1) ∧ decode 0b1111000000110011#16 = .ok (.ldB 0x0) ∧
    decode 0b1111001001010101#16 = .ok (.ldMemVx 0x2) ∧ decode 0b1111001001100101#16 = .ok (.ldVxMem 0x2) := by
  decide

theorem test_decode_draw :
    decode 0b0000000011100000#16 = .ok .cls ∧ decode 0b1101001101000101#16 = .ok (.drw 0x3 0x4 0x5#4) := by decide

theorem test_decode_timers_keys :
    decode 0b1110000010011110#16 = .ok (.skp 0x0) ∧ decode 0b1110000010100001#16 = .ok (.sknp 0x0) ∧
    decode 0b1111001000000111#16 = .ok (.ldVxDt 0x2) ∧ decode 0b1111111100001010#16 = .ok (.ldVxK 0xF) ∧
    decode 0b1111000100010101#16 = .ok (.ldDtVx 0x1) ∧ decode 0b1111000100011000#16 = .ok (.ldStVx 0x1) := by
  decide

/-- R86, row by row; 8018 to 801F and E09F are vectors of Part 2. -/
theorem test_decode_rejects :
    decode 0x0000#16 = .error (.category0 0x0000#16) ∧ decode 0x00E1#16 = .error (.category0 0x00E1#16) ∧
    decode 0x8018#16 = .error (.category8 0x8#4) ∧ decode 0x801D#16 = .error (.category8 0xD#4) ∧
    decode 0x801F#16 = .error (.category8 0xF#4) ∧ decode 0xE09F#16 = .error (.categoryE 0x9F#8) ∧
    decode 0xF000#16 = .error (.categoryF 0x00#8) ∧ decode 0xF275#16 = .error (.categoryF 0x75#8) ∧
    decodeBytes [0x12#8] = .error .tooShort := by decide

/-- W11: M[0x200] = 12, M[0x201] = 34 is the word 0x1234, and the bytes after it are handed back. -/
theorem test_decode_bytes :
    decodeBytes [0x12#8, 0x34#8, 0x56#8] = .ok (.jp 0x234#12, [0x56#8]) ∧
    encodeBytes (.jp 0x234#12) = [0x12#8, 0x34#8] ∧ decodeTableWord 16 0x1234 = some (.jp 0x234#12) ∧
    decodeTableWord 16 0x8018 = none := by decide

/-! ### ALU (Part 2, section A) -/

theorem test_ldImm : after 0x6A2F State.reset (fun t => t.reg 0xA == 0x2F#8 && t.pc == 0x202#16) = true ∧
    after 0x6F07 (regs [(0xF, 0x01#8)]) (fun t => t.reg 0xF == 0x07#8) = true := by decide
theorem test_addImm : after 0x7303 (regs [(3, 0xFE#8), (0xF, 0x55#8)])
      (fun t => t.reg 3 == 0x01#8 && t.reg 0xF == 0x55#8) = true ∧
    after 0x7F01 (regs [(0xF, 0x10#8)]) (fun t => t.reg 0xF == 0x11#8) = true := by decide
theorem test_ldReg : after 0x8010 (regs [(1, 0x42#8)]) (fun t => t.reg 0 == 0x42#8 && t.reg 1 == 0x42#8) = true := by
  decide
theorem test_orReg : after 0x8011 (regs [(0, 0x0F#8), (1, 0xF0#8), (0xF, 0x01#8)])
    (fun t => t.reg 0 == 0xFF#8 && t.reg 0xF == 0x01#8) = true := by decide
theorem test_andReg : after 0x8012 (regs [(0, 0x3C#8), (1, 0x0F#8)]) (fun t => t.reg 0 == 0x0C#8) = true := by decide
theorem test_xorReg : after 0x8013 (regs [(0, 0xFF#8), (1, 0x0F#8)]) (fun t => t.reg 0 == 0xF0#8) = true := by decide
theorem test_addReg : after 0x8014 (regs [(0, 0xC8#8), (1, 0x64#8)])
      (fun t => t.reg 0 == 0x2C#8 && t.reg 1 == 0x64#8 && t.reg 0xF == 0x01#8) = true ∧
    after 0x8014 (regs [(0, 0x7F#8), (1, 0x80#8)]) (fun t => t.reg 0 == 0xFF#8 && t.reg 0xF == 0x00#8) = true := by
  decide
theorem test_addReg_vf : after 0x8F14 (regs [(1, 0xFF#8), (0xF, 0x02#8)]) (fun t => t.reg 0xF == 0x01#8) = true ∧
    after 0x80F4 (regs [(0, 0xF0#8), (0xF, 0x20#8)]) (fun t => t.reg 0 == 0x10#8 && t.reg 0xF == 0x01#8) = true ∧
    after 0x8FF4 (regs [(0xF, 0x90#8)]) (fun t => t.reg 0xF == 0x20#8) = true := by decide
theorem test_sub : after 0x8015 (regs [(0, 0x07#8), (1, 0x07#8)])
      (fun t => t.reg 0 == 0x00#8 && t.reg 0xF == 0x01#8) = true ∧
    after 0x8015 (regs [(0, 0x03#8), (1, 0x05#8)]) (fun t => t.reg 0 == 0xFE#8 && t.reg 0xF == 0x00#8) = true := by decide
theorem test_sub_vf : after 0x80F5 (regs [(0, 0x10#8), (0xF, 0x20#8)])
      (fun t => t.reg 0 == 0x10#8 && t.reg 0xF == 0x00#8) = true ∧
    after 0x8F15 (regs [(1, 0x10#8), (0xF, 0x20#8)]) (fun t => t.reg 0xF == 0xF1#8) = true ∧
    after 0x8FF5 (regs [(0xF, 0x33#8)]) (fun t => t.reg 0xF == 0x00#8) = true := by decide
theorem test_shr : after 0x8016 (regs [(0, 0xAA#8), (1, 0x05#8)])
    (fun t => t.reg 0 == 0x02#8 && t.reg 1 == 0x05#8 && t.reg 0xF == 0x01#8) = true := by decide
theorem test_shr_vf : after 0x80F6 (regs [(0xF, 0x03#8)]) (fun t => t.reg 0 == 0x00#8 && t.reg 0xF == 0x01#8) = true ∧
    after 0x8F16 (regs [(1, 0x06#8), (0xF, 0x01#8)]) (fun t => t.reg 0xF == 0x03#8) = true ∧
    after 0x8FF6 (regs [(0xF, 0x07#8)]) (fun t => t.reg 0xF == 0x00#8) = true := by decide
theorem test_subn : after 0x8017 (regs [(0, 0x05#8), (1, 0x03#8)])
    (fun t => t.reg 0 == 0xFE#8 && t.reg 0xF == 0x00#8) = true := by decide
theorem test_subn_vf : after 0x80F7 (regs [(0, 0x10#8), (0xF, 0x20#8)])
      (fun t => t.reg 0 == 0xF1#8 && t.reg 0xF == 0x01#8) = true ∧
    after 0x8F17 (regs [(1, 0x10#8), (0xF, 0x20#8)]) (fun t => t.reg 0xF == 0x10#8) = true := by decide
theorem test_shl : after 0x801E (regs [(1, 0x81#8)])
    (fun t => t.reg 0 == 0x02#8 && t.reg 1 == 0x81#8 && t.reg 0xF == 0x01#8) = true := by decide
theorem test_shl_vf : after 0x80FE (regs [(0xF, 0x81#8)]) (fun t => t.reg 0 == 0x02#8 && t.reg 0xF == 0x01#8) = true ∧
    after 0x8F1E (regs [(1, 0x81#8)]) (fun t => t.reg 0xF == 0x02#8) = true ∧
    after 0x8FFE (regs [(0xF, 0x41#8)]) (fun t => t.reg 0xF == 0x00#8) = true := by decide

/-- The vectors of R152, for the byte that they give. -/
theorem test_rnd_mask : (maskedRandom 0xAB#8 0 0x0F#8 State.reset).reg 0 = 0x0B#8 ∧
    (maskedRandom 0x03#8 0xF 0x01#8 State.reset).reg 0xF = 0x01#8 := by decide

/-- C000 gives 0 whatever byte is drawn. -/
theorem test_rnd_zero : ∃ t, exec (.rnd 0 0x00#8) State.reset = .next t ∧ t.reg 0 = 0x00#8 :=
  ⟨_, rfl, by simp [maskedRandom]⟩

/-! ### Control flow (Part 2, section B) -/

theorem test_ret : after 0x00EE (withSp 1 { State.reset with pc := 0x208#16, stack := Vector.replicate 16 0x202#16 })
    (fun t => t.pc == 0x202#16 && t.sp == 0 && t.stack[0] == 0x202#16) = true := by decide
theorem test_ret_underflow : faults 0x00EE State.reset .stackUnderflow 0x0 = true := by decide
theorem test_jp : after 0x1201 State.reset (fun t => t.pc == 0x201#16 && !t.faulted) = true := by decide
theorem test_call : after 0x2208 State.reset
      (fun t => t.pc == 0x208#16 && t.sp == 1 && t.stack[0] == 0x202#16) = true ∧
    after 0x2300 (withSp 15 State.reset) (fun t => t.pc == 0x300#16 && t.sp == 16 && t.stack[15] == 0x202#16) = true := by
  decide
theorem test_call_overflow : faults 0x2300 (withSp 16 State.reset) .stackOverflow 0x10 = true := by decide
theorem test_seImm : after 0x3005 (regs [(0, 0x05#8)]) (fun t => t.pc == 0x204#16) = true ∧
    after 0x3005 (regs [(0, 0x06#8)]) (fun t => t.pc == 0x202#16) = true := by decide
theorem test_sneImm : after 0x4006 (regs [(0, 0x05#8)]) (fun t => t.pc == 0x204#16) = true ∧
    after 0x4005 (regs [(0, 0x05#8)]) (fun t => t.pc == 0x202#16) = true := by decide
theorem test_seReg : after 0x5123 (regs [(1, 0x10#8), (2, 0x10#8)]) (fun t => t.pc == 0x204#16) = true ∧
    after 0x5120 (regs [(1, 0x10#8), (2, 0x11#8)]) (fun t => t.pc == 0x202#16) = true := by decide
theorem test_sneReg : after 0x9120 (regs [(1, 0x10#8), (2, 0x11#8)]) (fun t => t.pc == 0x204#16) = true ∧
    after 0x912F (regs [(1, 0x10#8), (2, 0x10#8)]) (fun t => t.pc == 0x202#16) = true := by decide
theorem test_jpV0 : after 0xBFFF (regs [(0, 0xFF#8)]) (fun t => t.pc == 0x10FE#16 && !t.faulted) = true := by decide

/-! ### Index register and memory (Part 2, section C) -/

theorem test_ldI : after 0xA300 State.reset (fun t => t.index == 0x300#16) = true := by decide
theorem test_addI : after 0xF21E (at_ 0xFFFF (regs [(2, 0x01#8), (0xF, 0x07#8)]))
    (fun t => t.index == 0x0000#16 && t.reg 0xF == 0x07#8) = true := by decide
theorem test_ldF : after 0xF129 (regs [(1, 0x10#8)]) (fun t => t.index == 0x050#16) = true ∧
    after 0xF129 (regs [(1, 0xFF#8)]) (fun t => t.index == 0x4FB#16) = true := by decide
theorem test_ldB : after 0xF033 (at_ 0x300 (regs [(0, 0x9D#8)]))
    (fun t => t.mem.readBlock 0x300 3 == [0x01#8, 0x05#8, 0x07#8] && t.index == 0x300#16) = true := by decide
theorem test_ldB_faults : faults 0xF033 (at_ 0xFFE State.reset) .dataOutOfBounds 0x1000 = true ∧
    faults 0xF033 (at_ 0x04E State.reset) .protectedWrite 0x04E = true := by decide
theorem test_ldMemVx : after 0xF255 (at_ 0x300 (regs [(0, 0x01#8), (1, 0x02#8), (2, 0x03#8)]))
      (fun t => t.mem.readBlock 0x300 4 == [0x01#8, 0x02#8, 0x03#8, 0x00#8] && t.index == 0x303#16) = true ∧
    after 0xF155 (at_ 0x050 (regs [(0, 0xAA#8)])) (fun t => t.mem.read 0x050 == 0xAA#8 && t.index == 0x052#16) = true := by
  decide
theorem test_ldMemVx_faults : faults 0xFF55 (at_ 0xFF1 State.reset) .dataOutOfBounds 0x1000 = true ∧
    faults 0xF155 (at_ 0x04F State.reset) .protectedWrite 0x04F = true ∧
    faults 0xF055 (at_ 0x1234 State.reset) .dataOutOfBounds 0x1234 = true := by decide
theorem test_ldVxMem : after 0xF265 (withBytes (regs [(3, 0x77#8)]) 0x300 [0x01#8, 0x05#8, 0x07#8, 0x09#8])
    (fun t => t.reg 0 == 0x01#8 && t.reg 1 == 0x05#8 && t.reg 2 == 0x07#8 && t.reg 3 == 0x77#8 &&
      t.index == 0x303#16) = true := by decide
theorem test_ldVxMem_fault : faults 0xFF65 (at_ 0xFF1 (regs [(0, 0x12#8)])) .dataOutOfBounds 0x1000 = true := by decide

/-- F465 at I = 0 with the default of FONT (R58), and R7: with another FONT the same bytes come from it. -/
theorem test_font : after 0xF465 State.reset (fun t => t.v.toList.take 5 == [0xF0#8, 0x90#8, 0x90#8, 0x90#8, 0xF0#8] &&
      t.index == 0x005#16) = true ∧
    after 0xF065 (State.resetWith (Vector.replicate Config.fontSize 0xAA#8)) (fun t => t.reg 0 == 0xAA#8) = true := by decide

/-! ### Draw and clear (Part 2, section D) -/

theorem test_cls : after 0x00E0 { regs [(0xF, 0x01#8)] with fb := togglePixel clearFb 5 5 }
    (fun t => t.fb == clearFb && t.reg 0xF == 0x01#8 && t.fbDirty) = true := by decide
theorem test_drw : after 0xD011 { withBytes State.reset 0x300 [0xC0#8] with fb := togglePixel clearFb 0 0 }
      (fun t => t.fbRdata 0x00#8 == 0x40#8 && t.reg 0xF == 0x01#8 && t.fbDirty) = true ∧
    after 0xD011 (withBytes (regs [(0, 0x3F#8), (1, 0x1F#8)]) 0x300 [0xFF#8])
      (fun t => t.fbRdata 0xFF#8 == 0x01#8 && t.fbRdata 0xF8#8 == 0xFE#8 && t.reg 0xF == 0x00#8) = true ∧
    after 0xDF01 (withBytes (regs [(0xF, 0x05#8)]) 0x300 [0x80#8])
      (fun t => pixel t.fb 5 0 && t.reg 0xF == 0x00#8) = true := by decide
theorem test_drw_rows : after 0xD012 (withBytes (regs [(1, 0x1F#8)]) 0x300 [0x80#8, 0x80#8])
      (fun t => pixel t.fb 0 31 && pixel t.fb 0 0) = true ∧
    after 0xD010 (regs [(0xF, 0x01#8)]) (fun t => t.fb == clearFb && t.reg 0xF == 0x00#8 && t.fbDirty) = true ∧
    faults 0xD013 (at_ 0xFFE State.reset) .dataOutOfBounds 0x1000 = true := by decide

/-- W10: the packed form. -/
theorem test_packed : packedByte (togglePixel clearFb 0 0) 0x00#8 = 0x80#8 ∧
    packedByte (togglePixel clearFb 63 31) 0xFF#8 = 0x01#8 ∧ packedByte (togglePixel clearFb 8 1) 0x09#8 = 0x80#8 := by
  decide

/-! ### Timers and keys (Part 2, section E) -/

theorem test_ldVxDt : after 0xF207 (State.reset.setDt 0x3C#8) (fun t => t.reg 2 == 0x3C#8) = true := by decide
theorem test_ldDtVx : after 0xF115 (regs [(1, 0x3C#8)]) (fun t => t.dt == 0x3C#8 && t.st == 0x00#8) = true := by decide
theorem test_ldStVx : after 0xF118 (regs [(1, 0x05#8)])
    (fun t => t.st == 0x05#8 && t.dt == 0x00#8 && t.soundActive) = true := by decide
theorem test_skp : after 0xE09E (press 7 (regs [(0, 0x07#8)])) (fun t => t.pc == 0x204#16) = true ∧
    after 0xE09E (regs [(0, 0x07#8)]) (fun t => t.pc == 0x202#16) = true ∧
    faults 0xE09E (regs [(0, 0x10#8)]) .keyIndexOutOfRange 0x10 = true := by decide
theorem test_sknp : after 0xE0A1 (regs [(0, 0x07#8)]) (fun t => t.pc == 0x204#16) = true ∧
    after 0xE0A1 (press 7 (regs [(0, 0x07#8)])) (fun t => t.pc == 0x202#16) = true ∧
    faults 0xE0A1 (regs [(0, 0xFF#8)]) .keyIndexOutOfRange 0xFF = true := by decide
theorem test_ldVxK_stall : after 0xF30A State.reset (fun t => t.pc == 0x200#16 && t.v == State.reset.v) = true := by decide
theorem test_ldVxK : after 0xF30A (press 9 (press 3 State.reset)) (fun t => t.reg 3 == 0x03#8 && t.pc == 0x202#16) = true ∧
    after 0xFF0A (press 0xC State.reset) (fun t => t.reg 0xF == 0x0C#8) = true := by decide

/-! ### Engine, host events and faults (Part 2, section F, and program P7) -/

theorem test_no_program : ∃ t, step State.reset = .next t ∧ record t = (.illegalOpcode, 0x200, 0x0000, 0x200, true) :=
  ⟨_, rfl, by decide⟩
theorem test_fetch_misaligned : ∃ t, step { State.reset with pc := 0x201#16 } = .next t ∧
    record t = (.fetchMisaligned, 0x201, 0x0000, 0x201, true) := ⟨_, rfl, by decide⟩
theorem test_fetch_out_of_bounds : ∃ t, step { State.reset with pc := 0x1000#16 } = .next t ∧
    record t = (.fetchOutOfBounds, 0x1000, 0x0000, 0x1000, true) := ⟨_, rfl, by decide⟩
theorem test_last_word : after 0x1200 { State.reset with pc := 0xFFE#16 } (fun t => t.pc == 0x200#16) = true := by decide
theorem test_tick : State.tick { State.reset with dt := 0x01#8, st := 0x02#8 } = { State.reset with st := 0x01#8 } := by
  decide
theorem test_tick_faulted : State.onEvent { State.reset with dt := 0x05#8, faulted := true } .tick =
    .next { State.reset with dt := 0x05#8, faulted := true } := rfl
theorem test_load : (State.reset.load 0x100#12 0xAA#8).mem.read 0x100 = 0x00#8 ∧
    (State.reset.load 0x200#12 0xAA#8).mem.read 0x200 = 0xAA#8 ∧
    (State.reset.start.load 0x200#12 0xAA#8).mem.read 0x200 = 0x00#8 := by decide
theorem test_fbAck : State.fbAck { State.reset with fbDirty := true } = State.reset := by decide
theorem test_reset_event : State.onEvent { State.reset with faulted := true, pc := 0x201#16 } .reset = .next State.reset :=
  rfl

/-- The next instruction is placed where the next step fetches it, and read back. -/
theorem test_withFetchWord : fetchedWord (State.reset.withFetchWord 16 0x8014) = 0x8014#16 ∧
    fetchedWord (({ State.reset with pc := 0xFFE#16 } : State).withFetchWord 16 0x1200) = 0x1200#16 := by decide

/-! ### Witnesses: states and operands that meet the hypotheses of the statements, one a clause, at the boundaries -/

/-- The reset state with a word at PC. -/
def ready (w : Nat) : State := State.reset.withFetchWord 16 w

/-- A FONT that is not the default. -/
def otherFont : Font := Vector.replicate Config.fontSize 0xAA#8

/-- The same at the last address that can be fetched from. -/
def readyLast (w : Nat) : State := State.withFetchWord { State.reset with pc := 0xFFE#16 } 16 w

/-- The reset state, FAULTED. -/
def stopped : State := { State.reset with faulted := true }

theorem test_witness_EncodeOfDecode : ∃ w i, decode w = .ok i := ⟨0xFF65#16, _, rfl⟩

theorem test_witness_StepRunsDecodedInstruction :
    (∃ s i, s.faulted = false ∧ Fetchable s ∧ decode (fetchedWord s) = .ok i ∧ s.pc.toNat = 0x200) ∧
    (∃ s i, s.faulted = false ∧ Fetchable s ∧ decode (fetchedWord s) = .ok i ∧ s.pc.toNat = 0xFFE) :=
  ⟨⟨ready 0x8014, .addReg 0 1, rfl, by unfold Fetchable; decide, by decide, rfl⟩,
    ⟨readyLast 0x1200, .jp 0x200#12, rfl, by unfold Fetchable; decide, by decide, rfl⟩⟩

theorem test_witness_FetchWordPrimitive :
    (∃ s : State, s.faulted = false ∧ s.pc.toNat % 2 = 1 ∧ s.pc.toNat < 0xFFE) ∧
    (∃ s : State, s.faulted = false ∧ s.pc.toNat % 2 = 1 ∧ 0xFFE < s.pc.toNat) ∧
    (∃ s : State, s.faulted = false ∧ s.pc.toNat % 2 = 0 ∧ s.pc.toNat = 0x1000) ∧
    (∃ s : State, s.faulted = false ∧ s.pc.toNat % 2 = 0 ∧ s.pc.toNat = 0xFFE) :=
  ⟨⟨{ State.reset with pc := 0x201#16 }, by decide⟩, ⟨{ State.reset with pc := 0xFFF#16 }, by decide⟩,
    ⟨{ State.reset with pc := 0x1000#16 }, by decide⟩, ⟨{ State.reset with pc := 0xFFE#16 }, by decide⟩⟩

theorem test_witness_IllegalWordFaults : ∀ w ∈ [0x0000, 0x8018, 0x8FFF, 0xE09F, 0xF000, 0xFFFF],
    (ready w).faulted = false ∧ Fetchable (ready w) ∧ IllegalWord (fetchedWord (ready w)) := by
  unfold Fetchable IllegalWord
  decide

theorem test_witness_FaultedStateAbsorbs : ∃ s : State, s.faulted = true ∧ ∃ e : Event, e ≠ .reset :=
  ⟨stopped, rfl, .step, by decide⟩

theorem test_witness_FaultsArePrecise :
    (∃ s t, s.faulted = false ∧ step s = .next t ∧ t.faulted = true ∧ t.faultCode = .illegalOpcode) ∧
    (∃ s t, s.faulted = false ∧ step s = .next t ∧ t.faulted = true ∧ t.faultCode = .fetchMisaligned) ∧
    (∃ s t, s.faulted = false ∧ step s = .next t ∧ t.faulted = true ∧ t.faultCode = .stackUnderflow) :=
  ⟨⟨State.reset, _, rfl, rfl, rfl, rfl⟩, ⟨{ State.reset with pc := 0x201#16 }, _, rfl, rfl, rfl, rfl⟩,
    ⟨ready 0x00EE, _, rfl, rfl, rfl, rfl⟩⟩

theorem test_witness_FaultCausesByInstruction :
    (∃ i s t, s.faulted = false ∧ exec i s = .next t ∧ t.faulted = true) ∧
    (∃ s t, s.faulted = false ∧ step s = .next t ∧ t.faulted = true) :=
  ⟨⟨.ret, State.reset, _, rfl, rfl, rfl⟩, ⟨State.reset, _, rfl, rfl, rfl⟩⟩

theorem test_witness_PcAdvanceLaw :
    ∀ i ∈ [Instr.cls, .seImm 0 0x00#8, .sneImm 0 0x01#8, .jp 0xFFF#12, .jpV0 0xFFF#12, .ldVxK 0, .skp 0, .sknp 0],
    ∃ s t, s.faulted = false ∧ exec i s = .next t ∧ t.faulted = false := by
  intro i hi
  simp only [List.mem_cons, List.not_mem_nil, or_false] at hi
  rcases hi with rfl | rfl | rfl | rfl | rfl | rfl | rfl | rfl <;> exact ⟨State.reset, _, rfl, rfl, rfl⟩

theorem test_witness_StepSetsStarted : ∃ s t, s.faulted = false ∧ step s = .next t := ⟨State.reset, _, rfl, rfl⟩

theorem test_witness_OnlyTheirWritersChangeSpecialState : ∃ i s t, exec i s = .next t ∧ writesIndex i = false ∧
    (∀ nnn, i ≠ .call nnn) ∧ i ≠ .ret ∧ (∀ x, i ≠ .ldDtVx x) ∧ (∀ x, i ≠ .ldStVx x) ∧ i ≠ .cls ∧
    (∀ x y n, i ≠ .drw x y n) ∧ (∀ x, i ≠ .ldB x) ∧ ∀ x, i ≠ .ldMemVx x :=
  ⟨.ldImm 0 0x01#8, State.reset, _, rfl, by simp [writesIndex]⟩

theorem test_witness_HostStateIsUnobservable : ∃ s₁ s₂ t₁ t₂, s₁ ≠ s₂ ∧ hideHostState s₁ = hideHostState s₂ ∧
    step s₁ = .next t₁ ∧ step s₂ = .next t₂ :=
  ⟨ready 0xF007, State.setSt { ready 0xF007 with started := true, fbDirty := true } 0x05#8, _, _, by decide, by decide,
    rfl, rfl⟩

theorem test_witness_FontIsImmutable :
    (∃ s t e a, e ≠ .reset ∧ State.onEvent s e = .next t ∧ a < 0x050 ∧ a = 0x04F) ∧
    (∃ s t e, e ≠ .reset ∧ e ≠ .step ∧ State.onEvent s e = .next t) :=
  ⟨⟨ready 0xF033, _, .step, 0x04F, by decide, rfl, by decide, rfl⟩,
    ⟨State.reset, _, .load 0x04F#12 0xAA#8, by decide, by decide, rfl⟩⟩

/-- With the default of FONT and with another one; and by reset. -/
theorem test_witness_FontStaysTheArgument :
    (∃ s t e, State.onEvent s e = .next t ∧ FontInv s ∧ e = .step) ∧
    (∃ s t, State.onEvent s .reset = .next t ∧ FontInv s ∧ s.mem.font ≠ defaultFont) :=
  ⟨⟨ready 0xF033, _, .step, rfl, by unfold FontInv; decide, rfl⟩,
    ⟨State.resetWith otherFont, _, rfl, by unfold FontInv; decide, by decide⟩⟩

theorem test_witness_invariants :
    (∃ s t, MemoryInv s ∧ step s = .next t) ∧ (∃ s t, PcInv s ∧ step s = .next t ∧ s.pc.toNat = 0x10FE) ∧
    (∃ s t, PcInv s ∧ step s = .next t ∧ 0 < s.sp.val) ∧ (∃ s t, RecordInv s ∧ step s = .next t) :=
  ⟨⟨ready 0xF033, _, by unfold MemoryInv; decide, rfl⟩,
    ⟨{ State.reset with pc := 0x10FE#16 }, _, by unfold PcInv; decide, rfl, rfl⟩,
    ⟨State.push (ready 0x2300) 0x1000#16, _, by unfold PcInv; decide, rfl, by decide⟩,
    ⟨State.reset, _, by unfold RecordInv; decide, rfl⟩⟩

theorem test_witness_HostEventsKeepInvariants :
    ∀ e ∈ [Event.tick, .keyWrite 15 true, .load 0xFFF#12 0xAA#8, .fbAck, .reset],
    ∃ s t, e ≠ .step ∧ MemoryInv s ∧ PcInv s ∧ RecordInv s ∧ State.onEvent s e = .next t := by
  intro e he
  have hi : MemoryInv State.reset ∧ PcInv State.reset ∧ RecordInv State.reset := by
    unfold MemoryInv PcInv RecordInv
    decide
  simp only [List.mem_cons, List.not_mem_nil, or_false] at he
  rcases he with rfl | rfl | rfl | rfl | rfl <;> exact ⟨State.reset, _, by decide, hi.1, hi.2.1, hi.2.2, rfl⟩

/-- The five columns of R153's table. -/
theorem test_witness_VfOutcomeTable : (∃ x y : Reg, x ≠ vf ∧ y ≠ vf ∧ x ≠ y) ∧ (∃ x y : Reg, x = y ∧ x ≠ vf) ∧
    (∃ x y : Reg, x ≠ vf ∧ y = vf) ∧ (∃ x y : Reg, x = vf ∧ y ≠ vf) ∧ (∃ x y : Reg, x = vf ∧ y = vf) := by decide

/-- The clauses of the flag-writing instructions: VF named by x, by y, by neither. -/
theorem test_witness_flagClauses : (∃ x : Reg, x ≠ vf) ∧ (∃ x : Reg, x = vf) ∧ (∃ y : Reg, y ≠ vf) ∧ ∃ y : Reg, y = vf := by
  decide

theorem test_witness_ReturnPopsTheStack : ∀ k ∈ [(0 : Fin 17), 1, 16],
    (k = 0 → (withSp k State.reset).sp.val = 0) ∧ (k ≠ 0 → 0 < (withSp k State.reset).sp.val) := by decide

theorem test_witness_CallPushesReturnAddress : (withSp 16 State.reset).sp.val = 16 ∧
    (withSp 15 State.reset).sp.val < 16 ∧ State.reset.sp.val < 16 := by decide

theorem test_witness_ReturnUndoesCall : ∃ (nnn : Addr12) (s t u : State), s.sp.val = 15 ∧ exec (.call nnn) s = .next t ∧ u.sp = t.sp ∧
    u.stack = t.stack :=
  ⟨0x300#12, withSp 15 State.reset, _, _, rfl, rfl, rfl, rfl⟩

theorem test_witness_StoreDecimalDigits : (∃ s : State, 0x050 ≤ s.index.toNat ∧ s.index.toNat + 2 ≤ 0xFFF ∧
      s.index.toNat = 0x050) ∧
    (∃ s : State, 0x050 ≤ s.index.toNat ∧ s.index.toNat + 2 = 0xFFF) ∧ (∃ s : State, s.index.toNat = 0x04F) ∧
    (∃ s : State, 0xFFF < s.index.toNat + 2 ∧ s.index.toNat = 0xFFE) ∧ (∃ s : State, s.index.toNat = 0xFFFF) :=
  ⟨⟨at_ 0x050 State.reset, by decide⟩, ⟨at_ 0xFFD State.reset, by decide⟩, ⟨at_ 0x04F State.reset, by decide⟩,
    ⟨at_ 0xFFE State.reset, by decide⟩, ⟨at_ 0xFFFF State.reset, by decide⟩⟩

theorem test_witness_StoreRegisterBlock :
    (∃ (x : Reg) (s : State), x = 15 ∧ 0x050 ≤ s.index.toNat ∧ s.index.toNat + x.val = 0xFFF) ∧
    (∃ (x : Reg) (s : State), x = 0 ∧ s.index.toNat = 0x050 ∧ s.index.toNat + x.val ≤ 0xFFF) ∧
    (∃ (x : Reg) (s : State), x = 1 ∧ s.index.toNat = 0x04F) ∧
    (∃ (x : Reg) (s : State), x = 15 ∧ 0xFFF < s.index.toNat + x.val ∧ s.index.toNat = 0xFF1) :=
  ⟨⟨15, at_ 0xFF0 State.reset, by decide⟩, ⟨0, at_ 0x050 State.reset, by decide⟩, ⟨1, at_ 0x04F State.reset, by decide⟩,
    ⟨15, at_ 0xFF1 State.reset, by decide⟩⟩

theorem test_witness_LoadRegisterBlock :
    (∃ (x : Reg) (s : State), x = 15 ∧ s.index.toNat + x.val = 0xFFF) ∧
    (∃ (x : Reg) (s : State), x = 0 ∧ s.index.toNat = 0 ∧ ∃ k : Reg, x.val < k.val) ∧
    (∃ (x : Reg) (s : State), x = 15 ∧ 0xFFF < s.index.toNat + x.val ∧ s.index.toNat = 0xFF1) :=
  ⟨⟨15, at_ 0xFF0 State.reset, by decide⟩, ⟨0, at_ 0 State.reset, by decide⟩, ⟨15, at_ 0xFF1 State.reset, by decide⟩⟩

theorem test_witness_BlockRoundTrip : ∃ (x : Reg) (s t u : State), 0x050 ≤ s.index.toNat ∧ s.index.toNat + x.val ≤ 0xFFF ∧
    exec (.ldMemVx x) s = .next t ∧ u.mem = t.mem ∧ u.index = s.index :=
  ⟨2, at_ 0x400 (regs [(0, 0x11#8), (1, 0x22#8), (2, 0x33#8)]), _, State.setIndex _ 0x400#16, by decide, by decide, rfl,
    rfl, rfl⟩

/-- A fetch inside the stored block, across its end, and elsewhere; and the same of Fx33. -/
theorem test_witness_StoredCodeIsFetched :
    (∀ a ∈ [0x400#16, 0x402#16, 0x200#16, 0xFFE#16], ∃ (x : Reg) (s t u : State), 0x050 ≤ s.index.toNat ∧
      s.index.toNat + x.val ≤ 0xFFF ∧ exec (.ldMemVx x) s = .next t ∧ u.mem = t.mem ∧ u.faulted = false ∧ Fetchable u ∧
      s.index = 0x400#16 ∧ u.pc = a) ∧
    (∃ (x : Reg) (s t u : State), 0x050 ≤ s.index.toNat ∧ s.index.toNat + 2 = 0xFFF ∧ exec (.ldB x) s = .next t ∧
      u.mem = t.mem ∧ u.faulted = false ∧ Fetchable u) := by
  refine ⟨fun a ha => ⟨2, at_ 0x400 (regs [(0, 0x12#8), (1, 0x34#8)]), _, State.setPc _ a, by decide, by decide, rfl, rfl,
    rfl, ?_, rfl, rfl⟩,
    ⟨0, at_ 0xFFD (regs [(0, 0x9D#8)]), _, State.setPc _ 0xFFE#16, by decide, by decide, rfl, rfl, rfl, ?_⟩⟩
  · show a.toNat % 2 = 0 ∧ a.toNat ≤ 0xFFE
    simp only [List.mem_cons, List.not_mem_nil, or_false] at ha
    rcases ha with rfl | rfl | rfl | rfl <;> decide
  · show (0xFFE#16).toNat % 2 = 0 ∧ (0xFFE#16).toNat ≤ 0xFFE
    decide

/-- A one-row sprite at 0xFFF, at origin (0, 0). -/
def spriteAtEnd (row : Byte) : State := withBytes State.reset 0xFFF [row]

theorem test_witness_DrawSprite :
    (∃ s n, SpriteInMemory s n ∧ s.index.toNat = 0xFFF ∧ n = 1#4) ∧ (∃ s, SpriteInMemory s 0#4 ∧ s.index.toNat = 0xFFFF) ∧
    (∃ s, ¬SpriteInMemory s 2#4 ∧ s.index.toNat = 0xFFF) ∧
    (∃ s c q, SpriteInMemory s 1#4 ∧ SpriteOn s 0 1 1#4 c q ∧ pixel s.fb c q = true) ∧
    (∃ s, SpriteInMemory s 1#4 ∧ ¬∃ c q, SpriteOn s 0 1 1#4 c q ∧ pixel s.fb c q = true) := by
  refine ⟨⟨spriteAtEnd 0x80#8, 1#4, by unfold SpriteInMemory; decide, by decide, rfl⟩,
    ⟨at_ 0xFFFF State.reset, by unfold SpriteInMemory; decide, by decide⟩,
    ⟨spriteAtEnd 0x80#8, by unfold SpriteInMemory; decide, by decide⟩,
    ⟨{ spriteAtEnd 0x80#8 with fb := togglePixel clearFb 0 0 }, 0, 0, by unfold SpriteInMemory; decide,
      ⟨0, by decide, 0, by decide, by decide, by decide, by decide⟩, by decide⟩,
    ⟨spriteAtEnd 0x80#8, by unfold SpriteInMemory; decide, ?_⟩⟩
  rintro ⟨c, q, -, h⟩
  simp [spriteAtEnd, withBytes, pixel, State.reset, State.resetWith, State.setMem, State.setIndex] at h

theorem test_witness_DrawTwiceRestores :
    (∃ x y n s t, SpriteInMemory s n ∧ exec (.drw x y n) s = .next t ∧
      (State.reg t x).toNat % 64 = (State.reg s x).toNat % 64 ∧
      (State.reg t y).toNat % 32 = (State.reg s y).toNat % 32) ∧
    (∃ x y s, State.index s = 0xFFF#16 ∧ (State.reg s x).toNat % 64 = 63 ∧ (State.reg s y).toNat % 32 = 31) :=
  ⟨⟨0, 1, 1#4, spriteAtEnd 0x80#8, _, by unfold SpriteInMemory; decide, rfl, by decide, by decide⟩,
    ⟨0, 1, withRegs (spriteAtEnd 0xFF#8) [(0, 0x3F#8), (1, 0x1F#8)], by decide, by decide, by decide⟩⟩

theorem test_witness_PackedReadForm :
    (∃ (b : Byte) (j : Nat) (c : Fin 64) (r : Fin 32), j < 8 ∧ c.val = 8 * (b.toNat % 8) + j ∧ r.val = b.toNat / 8 ∧
      c = 63 ∧ r = 31) ∧
    (∃ (b : Byte) (j : Nat) (c : Fin 64) (r : Fin 32), j < 8 ∧ c.val = 8 * (b.toNat % 8) + j ∧ r.val = b.toNat / 8 ∧
      c = 0 ∧ r = 0) :=
  ⟨⟨0xFF#8, 7, 63, 31, by decide⟩, ⟨0x00#8, 0, 0, 0, by decide⟩⟩

theorem test_witness_DirtyFlagProtocol :
    (∃ s t, exec .cls s = .next t) ∧ (∃ s t x y n, SpriteInMemory s n ∧ exec (.drw x y n) s = .next t) ∧
    (∃ s t, State.faulted s = false ∧ s.onEvent .fbAck = .next t) ∧ (∃ s t, State.onEvent s .reset = .next t) ∧
    (∃ s t e, e ≠ .fbAck ∧ e ≠ .reset ∧ State.onEvent s e = .next t ∧ t.fbDirty ≠ s.fbDirty) :=
  ⟨⟨State.reset, _, rfl⟩, ⟨spriteAtEnd 0x80#8, _, 0, 1, 1#4, by unfold SpriteInMemory; decide, rfl⟩,
    ⟨{ State.reset with fbDirty := true }, _, rfl, rfl⟩, ⟨stopped, _, rfl⟩,
    ⟨ready 0x00E0, _, .step, by decide, by decide, rfl, by decide⟩⟩

theorem test_witness_TimerInstructions : State.reset.faulted = false := rfl

theorem test_witness_KeySkips : ∀ k ∈ [(0 : Fin 16), 15],
    ((regs [(0, BitVec.ofNat 8 k.val)]).reg 0).toNat = k.val ∧ 0xF < ((regs [(0, 0x10#8)]).reg 0).toNat := by decide

theorem test_witness_KeyWait : (∀ k : Fin 16, State.reset.keys[k.val] = false) ∧
    (∀ k ∈ [(0 : Fin 16), 15], (press k State.reset).keys[k.val] = true ∧
      ∀ j : Fin 16, j.val < k.val → (press k State.reset).keys[j.val] = false) := by decide

theorem test_witness_TickCountsDown : stopped.faulted = true ∧ State.reset.faulted = false := by decide

theorem test_witness_KeyWriteSetsOneKey : ∃ s : State, ∃ k j : Fin 16, s.faulted = false ∧ k = 15 ∧ j ≠ k :=
  ⟨State.reset, 15, 14, rfl, rfl, by decide⟩

theorem test_witness_ProgramLoad : stopped.faulted = true ∧ State.reset.start.started = true ∧
    (0x1FF#12).toNat < 0x200 ∧
    (State.reset.faulted = false ∧ State.reset.started = false ∧ 0x200 ≤ (0x200#12).toNat ∧ 0x200 ≤ (0xFFF#12).toNat) ∧
    (List.replicate 3584 0xAA#8).length ≤ 3584 := by
  refine ⟨rfl, rfl, by decide, ⟨rfl, rfl, by decide, by decide⟩, ?_⟩
  rw [List.length_replicate]

theorem test_witness_AcknowledgeClearsDirty : ∃ s : State, s.faulted = false ∧ s.fbDirty = true :=
  ⟨{ State.reset with fbDirty := true }, rfl, rfl⟩

theorem test_witness_ResetRestoresEverything : 0x04F < 0x050 ∧ 0x050 ≤ 0x050 ∧ 15 < 16 := by decide

theorem test_witness_IdleStepChangesNothing : (∃ s : State, IdleEnd s ∧ s.started = true ∧ s.pc.toNat = 0x200) ∧
    (∃ s : State, IdleEnd s ∧ s.started = true ∧ s.pc.toNat = 0xFFE) :=
  ⟨⟨(ready 0x1200).start, by unfold IdleEnd Fetchable; decide, rfl, rfl⟩,
    ⟨(readyLast 0x1FFE).start, by unfold IdleEnd Fetchable; decide, rfl, rfl⟩⟩

end Sys2Proof.Tests
end

section
/-! PROOFS. What a host event can do to memory, and that no event disturbs FONT or its block (R7, R52, R57, R360). -/

namespace Sys2Proof.Machine

/-! ### Memory after an event -/

/-- Everything the gate of R116 can do: in FAULTED it keeps the state, and otherwise the event takes place. -/
theorem State.unlessFaulted_cases (s t : State) : s.unlessFaulted t = s ∨ s.unlessFaulted t = t := by
  unfold State.unlessFaulted
  split
  · exact .inl rfl
  · exact .inr rfl

/-- An event that leaves memory alone outside FAULTED leaves it alone in every state. -/
theorem State.unlessFaulted_mem {s t : State} (h : t.mem = s.mem) : (s.unlessFaulted t).mem = s.mem := by
  rcases s.unlessFaulted_cases t with hs | ht
  · rw [hs]
  · rw [ht, h]

/-- Everything a program-load write can do to memory: nothing, or one byte at 0x200 or above (R119). -/
theorem State.load_mem (s : State) (addr : Addr12) (data : Byte) :
    (s.load addr data).mem = s.mem ∨
    (0x200 ≤ addr.toNat ∧ (s.load addr data).mem = s.mem.write addr.toNat data) := by
  unfold State.load
  split
  · exact .inl rfl
  · split
    · exact .inl rfl
    · next hlow => exact .inr ⟨Nat.not_lt.1 hlow, rfl⟩

/-- Everything an event other than reset can do to memory: nothing, or one block write whose every byte passes the write
test (R52). A program load passes it without being tested, because its addresses are 0x200 to 0xFFF. -/
theorem onEvent_mem {s t : State} {e : Event} (he : e ≠ .reset) (h : s.onEvent e = .next t) :
    t.mem = s.mem ∨
    ∃ a bs, t.mem = s.mem.writeBlock a bs ∧ ∀ k < bs.length, writeOffence (a + k) = none := by
  cases e with
  | step => exact (step_mem h).imp_right fun hblock => ⟨s.dataAddr, hblock⟩
  | tick | keyWrite | fbAck =>
    cases h
    exact .inl (State.unlessFaulted_mem rfl)
  | load addr data =>
    cases h
    rcases s.unlessFaulted_cases (s.load addr data) with hs | ht
    · exact .inl (by rw [hs])
    · rw [ht]
      refine (s.load_mem addr data).imp_right fun ⟨hlow, hm⟩ => ⟨addr.toNat, [data], hm, fun k hk => ?_⟩
      have hk : k < 1 := hk
      have := addr.isLt
      rw [writeOffence_eq_none]
      omega
  | reset => exact absurd rfl he

/-! ### FONT and its block -/

/-- A block write whose every byte passes the write test changes no byte of the font block. -/
theorem Memory.read_writeBlock_font (m : Memory) {a c : Nat} {bs : List Byte}
    (hk : ∀ k < bs.length, writeOffence (a + k) = none) (hc : c < 0x050) : (m.writeBlock a bs).read c = m.read c := by
  rw [Memory.read_writeBlock, dif_neg]
  rintro ⟨hle, hlen⟩
  obtain ⟨hlow, -⟩ := (writeOffence_eq_none _).1 (hk (c - a) hlen)
  omega

/-- No event other than reset changes a byte of the font block (R52, R57). -/
theorem onEvent_read_font {s t : State} {e : Event} (he : e ≠ .reset) (h : s.onEvent e = .next t) {a : Nat}
    (ha : a < 0x050) : t.mem.read a = s.mem.read a := by
  rcases onEvent_mem he h with hm | ⟨b, bs, hm, hk⟩
  · rw [hm]
  · rw [hm, Memory.read_writeBlock_font s.mem hk ha]

/-- The event reset puts the machine's own FONT in an otherwise empty memory (R360). -/
@[simp] theorem State.resetEvent_mem (s : State) : s.resetEvent.mem = { font := s.mem.font, cells := [] } := rfl

/-- No event changes the parameter FONT, reset included (R7). -/
theorem onEvent_font {s t : State} {e : Event} (h : s.onEvent e = .next t) : t.mem.font = s.mem.font := by
  by_cases he : e = .reset
  · subst he
    cases h
    rw [State.resetEvent_mem]
  · rcases onEvent_mem he h with hm | ⟨b, bs, hm, -⟩
    · rw [hm]
    · rw [hm, Memory.font_writeBlock]

/-- Memory with nothing listed holds its FONT in the font block, whatever FONT is. -/
theorem fontInv_of_mem_nil {s : State} {f : Font} (h : s.mem = { font := f, cells := [] }) : FontInv s := by
  intro a ha
  rw [h, Memory.read_nil]
  exact unlisted_font f ha

/-- Every event keeps the font block equal to FONT: reset writes it anew, and no other event touches it. -/
theorem onEvent_fontInv {s t : State} {e : Event} (h : s.onEvent e = .next t) (hs : FontInv s) : FontInv t := by
  by_cases he : e = .reset
  · subst he
    cases h
    exact fontInv_of_mem_nil s.resetEvent_mem
  · intro a ha
    rw [onEvent_font h, onEvent_read_font he h ha]
    exact hs a ha

end Sys2Proof.Machine

namespace Sys2Proof.Spec

open Sys2Proof.Machine

/-- Settles O59, from what an event can do to memory: a block write that passes the write test never reaches the font
block, and reset restores the block from FONT itself. -/
theorem fontStaysTheArgument : Obligations.FontStaysTheArgument :=
  fun _ _ _ h => ⟨onEvent_font h, onEvent_fontInv h⟩

/-- Settles O60, from the reading of memory with nothing listed: FONT below 0x050 and 0x00 above. -/
theorem resetTakesAnyFont : Obligations.ResetTakesAnyFont := by
  refine ⟨fun f => ⟨rfl, fontInv_of_mem_nil (State.resetWith_mem f), fun a ha => ?_, rfl⟩, rfl⟩
  rw [State.resetWith_mem, Memory.read_nil, unlisted_zero f ha]

end Sys2Proof.Spec
end

section
/-! PROOFS. Everything an instruction and a step can do: take a fault, or complete and leave unchanged whatever the
instruction does not write (R112, R113, R115, R324). -/

namespace Sys2Proof.Machine

/-! ### Frames: one rule per update of State -/

section Frame

variable {c : Changes} {s u : State}

theorem UnchangedBut.refl (c : Changes) (s : State) : UnchangedBut c s s := by
  simp [UnchangedBut]

theorem UnchangedBut.setReg (h : UnchangedBut c s u) {x : Reg} (hx : x ∈ c.regs) (b : Byte) :
    UnchangedBut c s (u.setReg x b) := by
  obtain ⟨hregs, hrest⟩ := h
  refine ⟨fun r hr => ?_, hrest⟩
  rw [State.reg_setReg_other u (ne_of_mem_of_not_mem hx hr).symm, hregs r hr]

theorem UnchangedBut.flagThenResult (h : UnchangedBut c s u) {x : Reg} (hx : x ∈ c.regs) (hvf : vf ∈ c.regs)
    (flag : Byte) (result : State → Byte) : UnchangedBut c s (flagThenResult flag x result u) :=
  (h.setReg hvf flag).setReg hx _

theorem UnchangedBut.loadRegs (h : UnchangedBut c s u) (hall : ∀ r, r ∈ c.regs) (bs : List Byte) :
    UnchangedBut c s (u.loadRegs bs) := by
  obtain ⟨-, hrest⟩ := h
  exact ⟨fun r hr => absurd (hall r) hr, hrest⟩

theorem UnchangedBut.setIndex (h : UnchangedBut c s u) (hc : c.index = true) (w : Word) :
    UnchangedBut c s (u.setIndex w) := by
  obtain ⟨hregs, -, hrest⟩ := h
  exact ⟨hregs, by simp [hc], hrest⟩

theorem UnchangedBut.push (h : UnchangedBut c s u) (hc : c.stack = true) (w : Word) :
    UnchangedBut c s (u.push w) := by
  obtain ⟨hregs, hindex, -, hrest⟩ := h
  exact ⟨hregs, hindex, by simp [hc], hrest⟩

theorem UnchangedBut.pop (h : UnchangedBut c s u) (hc : c.stack = true) : UnchangedBut c s u.pop := by
  obtain ⟨hregs, hindex, -, hrest⟩ := h
  exact ⟨hregs, hindex, by simp [hc], hrest⟩

theorem UnchangedBut.setDt (h : UnchangedBut c s u) (hc : c.dt = true) (b : Byte) : UnchangedBut c s (u.setDt b) := by
  obtain ⟨hregs, hindex, hstack, -, hrest⟩ := h
  exact ⟨hregs, hindex, hstack, by simp [hc], hrest⟩

theorem UnchangedBut.setSt (h : UnchangedBut c s u) (hc : c.st = true) (b : Byte) : UnchangedBut c s (u.setSt b) := by
  obtain ⟨hregs, hindex, hstack, hdt, -, hrest⟩ := h
  exact ⟨hregs, hindex, hstack, hdt, by simp [hc], hrest⟩

theorem UnchangedBut.setFb (h : UnchangedBut c s u) (hc : c.display = true) (f : Framebuffer) :
    UnchangedBut c s (u.setFb f) := by
  obtain ⟨hregs, hindex, hstack, hdt, hst, -, hrest⟩ := h
  exact ⟨hregs, hindex, hstack, hdt, hst, by simp [hc], hrest⟩

theorem UnchangedBut.writeBlock (h : UnchangedBut c s u) {bs : List Byte} (hlen : bs.length = c.memLen) :
    UnchangedBut c s (u.setMem (u.mem.writeBlock c.memFrom bs)) := by
  obtain ⟨hregs, hindex, hstack, hdt, hst, hdisplay, hmem, hfont, hrest⟩ := h
  refine ⟨hregs, hindex, hstack, hdt, hst, hdisplay, fun a ha => ?_, ?_, hrest⟩
  · rw [State.setMem_mem, Memory.read_writeBlock, dif_neg (by omega), hmem a ha]
  · rw [State.setMem_mem, Memory.font_writeBlock, hfont]

theorem UnchangedBut.drawn (h : UnchangedBut c s u) (hc : c.draws = true) : UnchangedBut c s u.drawn := by
  obtain ⟨hregs, hindex, hstack, hdt, hst, hdisplay, hmem, hfont, hkeys, hf, hcode, hpc, hword, haddr, -⟩ := h
  exact ⟨hregs, hindex, hstack, hdt, hst, hdisplay, hmem, hfont, hkeys, hf, hcode, hpc, hword, haddr, by simp [hc]⟩

/-- Committing a working copy completes the instruction: it writes PC and STARTED, which are outside every frame. -/
theorem UnchangedBut.completed (h : UnchangedBut c s u) {p q : Word} (hp : p = q) :
    Completed c q s (u.setPc p).start :=
  ⟨hp, rfl, h⟩

end Frame

/-! ### The codes that an instruction raises (R322) -/

theorem readOffence_code {a : Nat} {r : Raise} (h : readOffence a = some r) : r.code = .dataOutOfBounds := by
  unfold readOffence at h
  split at h <;> cases h
  rfl

theorem writeOffence_code {a : Nat} {r : Raise} (h : writeOffence a = some r) :
    r.code ∈ [.dataOutOfBounds, .protectedWrite] := by
  unfold writeOffence at h
  split at h
  · cases h; simp
  · split at h <;> cases h
    simp

theorem keyOffence_code {b : Byte} {r : Raise} (h : keyOffence b = some r) : r.code = .keyIndexOutOfRange := by
  unfold keyOffence at h
  split at h <;> cases h
  rfl

theorem callOffence_code {s : State} {r : Raise} (h : s.callOffence = some r) : r.code = .stackOverflow := by
  unfold State.callOffence at h
  split at h <;> cases h
  rfl

theorem retOffence_code {s : State} {r : Raise} (h : s.retOffence = some r) : r.code = .stackUnderflow := by
  unfold State.retOffence at h
  split at h <;> cases h
  rfl

theorem fetchOffence_code {pc : Word} {r : Raise} (h : fetchOffence pc = some r) :
    r.code ∈ [.fetchMisaligned, .fetchOutOfBounds] := by
  unfold fetchOffence at h
  split at h
  · cases h; simp
  · split at h <;> cases h
    simp

/-- What a test can raise at one address is all that it can raise over a block. -/
theorem firstOffence_raises {test : Nat → Option Raise} {P : Raise → Prop} (hP : ∀ a r, test a = some r → P r)
    {a n : Nat} {r : Raise} (h : firstOffence test a n = some r) : P r := by
  obtain ⟨k, -, hk, -⟩ := firstOffence_eq_some h
  exact hP _ _ hk

/-- No instruction raises the code NONE (R321, R322). -/
theorem none_not_mem_ownFaults (i : Instr) : FaultCode.none ∉ ownFaults i := by
  cases i <;> simp [ownFaults]

/-! ### What the instructions that branch decide (R113) -/

theorem zextAddr_eq_ofNat (nnn : Addr12) : zextAddr nnn = BitVec.ofNat 16 nnn.toNat :=
  (BitVec.ofNat_toNat 16 nnn).symm

theorem computedTarget_eq_ofNat (nnn : Addr12) (b : Byte) :
    computedTarget nnn b = BitVec.ofNat 16 (nnn.toNat + b.toNat) := by
  rw [BitVec.ofNat_add, BitVec.ofNat_toNat, BitVec.ofNat_toNat]
  rfl

/-- A key index that passes its test selects a key of R33. -/
theorem State.key_eq_iff {s : State} {b : Byte} (h : keyOffence b = none) (v : Bool) :
    s.key b = v ↔ ∃ k : Fin 16, k.val = b.toNat ∧ s.keys[k.val] = v := by
  have hb : b.toNat < 16 := by
    unfold keyOffence at h
    split at h
    · cases h
    · omega
  have hkey : s.key b = s.keys[b.toNat] := by simp [State.key, Nat.mod_eq_of_lt hb]
  rw [hkey]
  exact ⟨fun hv => ⟨⟨b.toNat, hb⟩, rfl, hv⟩, fun ⟨k, hk, hv⟩ => by simpa [hk] using hv⟩

theorem State.lowestKey_isSome_iff (s : State) : s.lowestKey.isSome ↔ ∃ k : Fin 16, s.keys[k.val] = true := by
  simp [State.lowestKey]

/-- The entry that a return pops, by its number. -/
theorem State.top_eq_getD (s : State) : s.top = s.stack.toList.getD (s.sp.val - 1) 0#16 := by
  have : s.sp.val - 1 < 16 := by omega
  simp [State.top, List.getD, this]

/-! ### Instructions -/

/-- What each instruction may write, PC and STARTED apart (R25 to R28, R31, R32, R34, R140 to R152, R181, R183, R220 to
R225, R262, R263, R290 to R295). -/
def writes (s : State) : Instr → Changes
  | .cls => { display := true }
  | .ret | .call _ => { stack := true }
  | .jp _ | .jpV0 _ | .seImm _ _ | .sneImm _ _ | .seReg _ _ _ | .sneReg _ _ _ | .skp _ | .sknp _ => {}
  | .ldImm x _ | .addImm x _ | .ldReg x _ | .orReg x _ | .andReg x _ | .xorReg x _ | .ldVxDt x | .ldVxK x =>
    { regs := [x] }
  | .addReg x _ | .sub x _ | .shr x _ | .subn x _ | .shl x _ => { regs := [x, vf] }
  | .rnd x _ => { regs := [x], draws := true }
  | .drw _ _ _ => { regs := [vf], display := true }
  | .ldDtVx _ => { dt := true }
  | .ldStVx _ => { st := true }
  | .ldI _ | .addI _ | .ldF _ => { index := true }
  | .ldB _ => { memFrom := s.dataAddr, memLen := 3 }
  | .ldMemVx x => { index := true, memFrom := s.dataAddr, memLen := blockLen x }
  | .ldVxMem _ => { regs := List.finRange 16, index := true }

/-- An instruction that may raise takes a fault of its own, or completes where its effect does. -/
theorem guarded_outcomes {o : Option Raise} {i : Instr} {s t : State} {e : Result} (h : guarded o i s e = .next t)
    (hcode : ∀ r, o = some r → r.code ∈ ownFaults i)
    (heffect : o = none → e = .next t → Completed (writes s i) (pcNext s i) s t) :
    (∃ r, r.code ∈ ownFaults i ∧ t = s.takeFault r (encode i)) ∨ Completed (writes s i) (pcNext s i) s t := by
  rcases guarded_cases h with ⟨r, ho, ht⟩ | ⟨ho, he⟩
  · exact .inl ⟨r, hcode r ho, ht⟩
  · exact .inr (heffect ho he)

/-- Everything an instruction can do: take a fault of its own with its own word (R322, R324), or complete, with PC as
the PC-advance law has it (R113), and leave whatever it does not write. -/
theorem exec_cases {i : Instr} {s t : State} (h : exec i s = .next t) :
    (∃ r, r.code ∈ ownFaults i ∧ t = s.takeFault r (encode i)) ∨ Completed (writes s i) (pcNext s i) s t := by
  have hs : UnchangedBut (writes s i) s s := .refl _ s
  cases i
  case ret =>
    refine guarded_outcomes h (fun r hr => by simp [ownFaults, retOffence_code hr]) fun _ he => ?_
    cases he
    exact (hs.pop rfl).completed s.top_eq_getD
  case call =>
    refine guarded_outcomes h (fun r hr => by simp [ownFaults, callOffence_code hr]) fun _ he => ?_
    cases he
    exact (hs.push rfl _).completed (zextAddr_eq_ofNat _)
  case drw =>
    refine guarded_outcomes h
      (fun r hr => by simpa [ownFaults] using firstOffence_raises (fun _ _ => readOffence_code) hr) fun _ he => ?_
    cases he
    exact ((hs.setReg List.mem_cons_self _).setFb rfl _).completed rfl
  case ldVxMem =>
    refine guarded_outcomes h
      (fun r hr => by simpa [ownFaults] using firstOffence_raises (fun _ _ => readOffence_code) hr) fun _ he => ?_
    cases he
    exact ((hs.loadRegs List.mem_finRange _).setIndex rfl _).completed rfl
  case ldB =>
    refine guarded_outcomes h (fun r hr => firstOffence_raises (fun _ _ => writeOffence_code) hr) fun _ he => ?_
    cases he
    exact (hs.writeBlock rfl).completed rfl
  case ldMemVx x =>
    refine guarded_outcomes h (fun r hr => firstOffence_raises (fun _ _ => writeOffence_code) hr) fun _ he => ?_
    cases he
    exact ((hs.writeBlock (s.length_regBlock x)).setIndex rfl _).completed rfl
  case skp =>
    refine guarded_outcomes h (fun r hr => by simp [ownFaults, keyOffence_code hr]) fun ho he => ?_
    cases he
    exact hs.completed (if_congr (State.key_eq_iff ho true) rfl rfl)
  case sknp =>
    refine guarded_outcomes h (fun r hr => by simp [ownFaults, keyOffence_code hr]) fun ho he => ?_
    cases he
    exact hs.completed (if_congr ((Bool.not_eq_true' _).to_iff.trans (State.key_eq_iff ho false)) rfl rfl)
  case ldVxK x =>
    have hkey := s.lowestKey_isSome_iff
    simp only [exec, execLdVxK] at h
    split at h
    · next hk =>
      cases h
      exact .inr (hs.completed (if_neg (by simp [← hkey, hk])).symm)
    · next k hk =>
      cases h
      exact .inr ((hs.setReg List.mem_cons_self _).completed (if_pos (by simp [← hkey, hk])).symm)
  case seImm | seReg | sneImm | sneReg =>
    cases h
    exact .inr (hs.completed (by simp [pcNext]))
  case jp =>
    cases h
    exact .inr (hs.completed (zextAddr_eq_ofNat _))
  case jpV0 =>
    cases h
    exact .inr (hs.completed (computedTarget_eq_ofNat _ _))
  case ldImm | addImm | ldReg | orReg | andReg | xorReg | ldVxDt =>
    cases h
    exact .inr ((hs.setReg List.mem_cons_self _).completed rfl)
  case addReg | sub | shr | subn | shl =>
    cases h
    exact .inr ((hs.flagThenResult List.mem_cons_self (List.mem_cons_of_mem _ List.mem_cons_self) _ _).completed rfl)
  case rnd =>
    cases h
    exact .inr (((hs.setReg List.mem_cons_self _).drawn rfl).completed rfl)
  case cls =>
    cases h
    exact .inr ((hs.setFb rfl _).completed rfl)
  case ldDtVx =>
    cases h
    exact .inr ((hs.setDt rfl _).completed rfl)
  case ldStVx =>
    cases h
    exact .inr ((hs.setSt rfl _).completed rfl)
  case ldI | addI | ldF =>
    cases h
    exact .inr ((hs.setIndex rfl _).completed rfl)

/-! ### Steps -/

/-- In FAULTED a step ends at once (R116). -/
theorem front_of_faulted {s : State} (hf : s.faulted = true) : s.front = .error s := by
  simp [State.front, hf]

/-- A fetch that raises ends the step with its fault, and no word (R53, R324). -/
theorem front_of_fetchOffence {s : State} (hf : s.faulted = false) {r : Raise} (hr : fetchOffence s.pc = some r) :
    s.front = .error (s.takeFault r 0x0000#16) := by
  simp [State.front, hf, hr]

/-- A word that is no instruction ends the step with ILLEGAL_OPCODE (R86, R324). -/
theorem front_of_reject {s : State} (hf : s.faulted = false) (hr : fetchOffence s.pc = none) {e : Reject}
    (he : decode (s.wordAt s.pc.toNat) = .error e) :
    s.front = .error (s.takeFault ⟨.illegalOpcode, s.pc⟩ (s.wordAt s.pc.toNat)) := by
  simp [State.front, hf, hr, he]

/-- Everything a step can do: nothing in FAULTED (R116), take a fault (R324), or complete one instruction. -/
theorem step_outcomes {s t : State} (h : step s = .next t) :
    (s.faulted = true ∧ t = s) ∨ (∃ r w, r.code ≠ .none ∧ t = s.takeFault r w) ∨
    ∃ i, s.front = .ok i ∧ exec i s = .next t ∧ Completed (writes s i) (pcNext s i) s t := by
  rcases step_cases s with ⟨u, hfront, hstep⟩ | ⟨i, hfront, hstep⟩
  · cases hstep.symm.trans h
    rcases front_error hfront with hfaulted | ⟨-, r, hr, ht⟩ | ⟨-, -, -, ht⟩
    · exact .inl hfaulted
    · have hcode := fetchOffence_code hr
      exact .inr (.inl ⟨r, _, fun hnone => by simp [hnone] at hcode, ht⟩)
    · exact .inr (.inl ⟨_, _, FaultCode.noConfusion, ht⟩)
  · have hexec : exec i s = .next t := hstep.symm.trans h
    rcases exec_cases hexec with ⟨r, hr, ht⟩ | hdone
    · exact .inr (.inl ⟨r, _, fun hnone => none_not_mem_ownFaults i (hnone ▸ hr), ht⟩)
    · exact .inr (.inr ⟨i, hfront, hexec, hdone⟩)

end Sys2Proof.Machine
end

section
/-! PROOFS. What every step keeps of memory, of PC and the stack, and of the fault record (R23, R29, R30, R181, R183,
R324), and which instructions write which item of state. -/

namespace Sys2Proof.Machine

/-! ### Memory -/

/-- A block write whose every byte passes the write test keeps the canonical form: it stays inside memory (R52). -/
theorem Memory.wf_writeBlock_of_tested {m : Memory} (h : m.wf = true) {a : Nat} {bs : List Byte}
    (hk : ∀ k < bs.length, writeOffence (a + k) = none) : (m.writeBlock a bs).wf = true := by
  cases bs with
  | nil => exact h
  | cons b rest =>
    have hlast : a + rest.length ≤ 0xFFF := ((writeOffence_eq_none _).1 (hk rest.length (by simp))).2
    exact Memory.wf_writeBlock h (by simp only [List.length_cons, Config.memSize]; omega)

/-! ### PC and the stack -/

/-- The stack's half of `PcInv`: every entry in use is an address that follows a call (R181, R183). -/
def StackInv (s : State) : Prop :=
  ∀ k (h : k < 16), k < s.sp.val → (s.stack[k]).toNat % 2 = 0 ∧ 2 ≤ (s.stack[k]).toNat ∧ (s.stack[k]).toNat ≤ 0x1000

theorem pcInv_iff {s : State} : PcInv s ↔ s.pc.toNat ≤ 0x10FE ∧ StackInv s := .rfl

theorem StackInv.congr {s t : State} (h : StackInv s) (hsp : t.sp = s.sp) (hstack : t.stack = s.stack) :
    StackInv t := by
  simpa [StackInv, hsp, hstack] using h

theorem State.push_sp_val {s : State} (h : s.sp.val < 16) (w : Word) : (s.push w).sp.val = s.sp.val + 1 :=
  Nat.mod_eq_of_lt (by omega)

theorem StackInv.push {s : State} (h : StackInv s) (hsp : s.sp.val < 16) {w : Word}
    (hw : w.toNat % 2 = 0 ∧ 2 ≤ w.toNat ∧ w.toNat ≤ 0x1000) : StackInv (s.push w) := by
  intro k hk hlt
  rw [State.push_sp_val hsp] at hlt
  simp only [State.push_stack]
  by_cases heq : s.sp.val = k
  · subst heq
    simpa using hw
  · rw [Vector.getElem_setIfInBounds_ne _ heq]
    exact h k hk (by omega)

theorem State.pop_sp_val (s : State) : s.pop.sp.val = s.sp.val - 1 :=
  Nat.mod_eq_of_lt (by omega)

theorem StackInv.pop {s : State} (h : StackInv s) : StackInv s.pop := by
  intro k hk hlt
  rw [State.pop_sp_val] at hlt
  exact h k hk (by omega)

theorem StackInv.top_le {s : State} (h : StackInv s) (hsp : 0 < s.sp.val) : s.top.toNat ≤ 0x1000 :=
  (h (s.sp.val - 1) (by omega) (by omega)).2.2

theorem callOffence_eq_none {s : State} : s.callOffence = none ↔ s.sp.val < 16 := by
  rw [State.callOffence, ite_eq_right_iff]
  simp only [Config.stackDepth, reduceCtorEq, imp_false]
  omega

theorem retOffence_eq_none {s : State} : s.retOffence = none ↔ 0 < s.sp.val := by
  simp [State.retOffence, Nat.pos_iff_ne_zero]

theorem fetchable_iff {s : State} : Fetchable s ↔ fetchOffence s.pc = none := by
  simp [fetchOffence_eq_none, Fetchable, BitVec.getLsbD]

/-- From a PC that can be fetched from, no instruction but a return sends PC above 0x10FE (R23): the farthest is Bnnn. -/
theorem pcNext_le {s : State} {i : Instr} (hpc : s.pc.toNat ≤ 0xFFE) (hret : i ≠ .ret) :
    (pcNext s i).toNat ≤ 0x10FE := by
  have h2 : (s.pc + 2#16).toNat ≤ 0x10FE := by bv_omega
  have h4 : (s.pc + 4#16).toNat ≤ 0x10FE := by bv_omega
  have h0 : s.pc.toNat ≤ 0x10FE := by omega
  cases i
  case ret => exact absurd rfl hret
  case jp | call | jpV0 =>
    simp only [pcNext, BitVec.toNat_ofNat]
    omega
  case seImm | sneImm | seReg | sneReg | skp | sknp | ldVxK =>
    simp only [pcNext]
    split <;> assumption
  all_goals exact h2

/-- An instruction that was fetched leaves PC and the stack in range: a call pushes an even address of at most 0x1000,
a return goes to one, and no other instruction writes the stack. -/
theorem exec_pcInv {i : Instr} {s t : State} (hfetch : Fetchable s) (hs : PcInv s) (h : exec i s = .next t) :
    PcInv t := by
  obtain ⟨heven, hle⟩ := hfetch
  obtain ⟨-, hstack⟩ := pcInv_iff.1 hs
  cases i
  case ret =>
    rcases guarded_cases h with ⟨r, -, rfl⟩ | ⟨ho, he⟩
    · exact hs
    · cases he
      have htop := hstack.top_le (retOffence_eq_none.1 ho)
      exact ⟨htop.trans (by decide), hstack.pop⟩
  case call nnn =>
    rcases guarded_cases h with ⟨r, -, rfl⟩ | ⟨ho, he⟩
    · exact hs
    · cases he
      have htarget := pcNext_le (i := .call nnn) hle Instr.noConfusion
      rw [show pcNext s (.call nnn) = zextAddr nnn from (zextAddr_eq_ofNat nnn).symm] at htarget
      exact ⟨htarget, hstack.push (callOffence_eq_none.1 ho) (by bv_omega)⟩
  all_goals
    rcases exec_cases h with ⟨r, -, rfl⟩ | ⟨hpc, -, -, -, hkept, -⟩
    · exact hs
    · obtain ⟨hsp, hentries⟩ := hkept rfl
      exact ⟨hpc ▸ pcNext_le hle Instr.noConfusion, hstack.congr hsp hentries⟩

/-! ### Which instruction writes which item -/

theorem writes_index (s : State) (i : Instr) : (writes s i).index = writesIndex i := by
  cases i <;> rfl

theorem writes_stack (s : State) {i : Instr} (hcall : ∀ nnn, i ≠ .call nnn) (hret : i ≠ .ret) :
    (writes s i).stack = false := by
  cases i
  case call nnn => exact absurd rfl (hcall nnn)
  case ret => exact absurd rfl hret
  all_goals rfl

theorem writes_dt (s : State) {i : Instr} (hdt : ∀ x, i ≠ .ldDtVx x) : (writes s i).dt = false := by
  cases i
  case ldDtVx x => exact absurd rfl (hdt x)
  all_goals rfl

theorem writes_st (s : State) {i : Instr} (hst : ∀ x, i ≠ .ldStVx x) : (writes s i).st = false := by
  cases i
  case ldStVx x => exact absurd rfl (hst x)
  all_goals rfl

theorem writes_display (s : State) {i : Instr} (hcls : i ≠ .cls) (hdrw : ∀ x y n, i ≠ .drw x y n) :
    (writes s i).display = false := by
  cases i
  case cls => exact absurd rfl hcls
  case drw x y n => exact absurd rfl (hdrw x y n)
  all_goals rfl

theorem writes_memLen (s : State) {i : Instr} (hb : ∀ x, i ≠ .ldB x) (hblock : ∀ x, i ≠ .ldMemVx x) :
    (writes s i).memLen = 0 := by
  cases i
  case ldB x => exact absurd rfl (hb x)
  case ldMemVx x => exact absurd rfl (hblock x)
  all_goals rfl

end Sys2Proof.Machine

namespace Sys2Proof.Spec

open Sys2Proof.Machine

/-- Settles O18, from what a step can do to memory: nothing, or a block write that passes the write test. -/
theorem stepKeepsMemoryCanonical : Obligations.StepKeepsMemoryCanonical := by
  intro s t hs h
  unfold MemoryInv
  rcases step_mem h with hm | ⟨bs, hm, hk⟩
  · rw [hm]
    exact hs
  · rw [hm]
    exact Memory.wf_writeBlock_of_tested hs hk

/-- Settles O14, from what a step can do: outside FAULTED it takes a fault or completes, and both set STARTED. -/
theorem stepSetsStarted : Obligations.StepSetsStarted := by
  intro s t hs h
  rcases step_outcomes h with ⟨hf, -⟩ | ⟨r, w, -, rfl⟩ | ⟨i, -, -, -, hstarted, -⟩
  · simp [hs] at hf
  · rfl
  · exact hstarted

/-- Settles O20, from what a step can do: a fault writes the record and sets FAULTED and STARTED with it, and an
instruction that completes leaves the record. -/
theorem stepKeepsFaultRecord : Obligations.StepKeepsFaultRecord := by
  intro s t hs h
  rcases step_outcomes h with ⟨-, rfl⟩ | ⟨r, w, hr, rfl⟩ | ⟨i, -, -, -, hstarted, hframe⟩
  · exact hs
  · simpa [RecordInv] using hr
  · obtain ⟨-, -, -, -, -, -, -, -, -, hfaulted, hcode, hpc, hword, haddr, -⟩ := hframe
    obtain ⟨hiff, hzero, -⟩ := hs
    rw [← hfaulted, ← hcode] at hiff
    rw [← hfaulted, ← hpc, ← hword, ← haddr] at hzero
    exact ⟨hiff, hzero, fun _ => hstarted⟩

/-- Settles O19, from what a step can do: FAULTED and a fault keep PC and the stack, and an instruction runs only from a
PC that can be fetched from. -/
theorem stepKeepsPcAndStackInRange : Obligations.StepKeepsPcAndStackInRange := by
  intro s t hs h
  rcases step_outcomes h with ⟨-, rfl⟩ | ⟨r, w, -, rfl⟩ | ⟨i, hfront, hexec, -⟩
  · exact hs
  · exact hs
  · obtain ⟨-, hfetch, -⟩ := front_ok.1 hfront
    exact exec_pcInv (fetchable_iff.2 hfetch) hs hexec

/-- Settles O15, from what an instruction can do: a fault leaves all of these items, and an instruction that completes
leaves what it does not write. -/
theorem onlyTheirWritersChangeSpecialState : Obligations.OnlyTheirWritersChangeSpecialState := by
  intro i s t h
  rcases exec_cases h with ⟨r, -, rfl⟩ | ⟨-, -, -, hindex, hstack, hdt, hst, hdisplay, hmem, -, hkeys, -⟩
  · simp
  · refine ⟨fun hw => hindex ((writes_index s i).trans hw), fun hcall hret => hstack (writes_stack s hcall hret),
      fun hw => hdt (writes_dt s hw), fun hw => hst (writes_st s hw), fun hcls hdrw => ?_, fun hb hblock a => ?_, hkeys⟩
    · obtain ⟨hpixels, hdirty⟩ := hdisplay (writes_display s hcls hdrw)
      exact ⟨framebuffer_ext hpixels, hdirty⟩
    · have hnone := writes_memLen s hb hblock
      exact hmem a (by omega)

end Sys2Proof.Spec
end

section
/-! PROOFS. STARTED, FB_DIRTY and ST are unobservable (R28, R29, R36, R264): hiding them before a step or after it leaves
the same state to be seen. -/

namespace Sys2Proof.Machine

/-- What a program can see of an answer: its next state with the host's items hidden. -/
def hideResult : Result → Result
  | .next t => .next (hideHostState t)
  | .fault r => .fault r
  | .refused r => .refused r

/-- A guard tests what a program can see, and so does the fault it takes. -/
theorem hideResult_guarded {o : Option Raise} {i : Instr} {s : State} {e e' : Result}
    (h : hideResult e' = hideResult e) :
    hideResult (guarded o i (hideHostState s) e') = hideResult (guarded o i s e) := by
  cases o with
  | none => exact h
  | some r => rfl

/-- No instruction reads STARTED, FB_DIRTY or ST: its result is the same from the state in which they are hidden. -/
theorem hideResult_exec (i : Instr) (s : State) :
    hideResult (exec i (hideHostState s)) = hideResult (exec i s) := by
  cases i
  case ret | call | drw | ldB | ldMemVx | ldVxMem | skp | sknp => exact hideResult_guarded rfl
  case ldVxK =>
    have hkey : (hideHostState s).lowestKey = s.lowestKey := rfl
    simp only [exec, execLdVxK, hkey]
    cases s.lowestKey <;> rfl
  all_goals rfl

/-- Nor does the front of a step: it ends in states that look the same, or runs the same instruction. -/
theorem front_hideHostState (s : State) :
    (∃ t t', s.front = .error t ∧ (hideHostState s).front = .error t' ∧ hideHostState t' = hideHostState t) ∨
    (∃ i, s.front = .ok i ∧ (hideHostState s).front = .ok i) := by
  cases hfront : s.front with
  | ok i =>
    have hruns := front_ok.1 hfront
    exact .inr ⟨i, rfl, front_ok.2 hruns⟩
  | error t =>
    refine .inl ⟨t, ?_⟩
    rcases front_error hfront with ⟨hf, rfl⟩ | ⟨hf, r, hr, rfl⟩ | ⟨hf, hr, ⟨e, he⟩, rfl⟩
    · exact ⟨_, rfl, front_of_faulted (s := hideHostState t) hf, rfl⟩
    · exact ⟨_, rfl, front_of_fetchOffence (s := hideHostState s) hf hr, rfl⟩
    · exact ⟨_, rfl, front_of_reject (s := hideHostState s) hf hr he, rfl⟩

/-- No step reads STARTED, FB_DIRTY or ST. -/
theorem hideResult_step (s : State) : hideResult (step (hideHostState s)) = hideResult (step s) := by
  unfold step
  rcases front_hideHostState s with ⟨t, t', h, h', heq⟩ | ⟨i, h, h'⟩
  · rw [h, h']
    exact congrArg Host.Outcome.next heq
  · rw [h, h']
    exact hideResult_exec i s

end Sys2Proof.Machine

namespace Sys2Proof.Spec

open Sys2Proof.Machine

/-- Settles O16: hiding STARTED, FB_DIRTY and ST commutes with a step, so what is seen after a step is a function of what
is seen before it. The random byte is too, because `draws` is seen (log 1). -/
theorem hostStateIsUnobservable : Obligations.HostStateIsUnobservable := by
  intro s₁ s₂ t₁ t₂ hs h₁ h₂
  have hseen : hideResult (step s₁) = hideResult (step s₂) := by
    rw [← hideResult_step s₁, hs, hideResult_step s₂]
  rw [h₁, h₂] at hseen
  exact Host.Outcome.next.inj hseen

end Sys2Proof.Spec
end

section
/-! PROOFS. Memory as a fetch sees it: the font that no event but reset changes (R52, R57), the fetch (R53), and stored
bytes run as code (R62). -/

namespace Sys2Proof.Machine

/-! ### The fetch (R53, R54) -/

/-- A word by its number: the byte at the lower address counts 256 (R53). -/
theorem wordOfBytes_eq_ofNat (hi lo : Byte) : wordOfBytes hi lo = BitVec.ofNat 16 (hi.toNat * 256 + lo.toNat) := by
  apply BitVec.eq_of_toNat_eq
  rw [wordOfBytes, BitVec.toNat_append, ← Nat.shiftLeft_add_eq_or_of_lt lo.isLt, Nat.shiftLeft_eq, BitVec.toNat_ofNat]
  omega

theorem wordAt_pc (s : State) : s.wordAt s.pc.toNat = fetchedWord s :=
  wordOfBytes_eq_ofNat _ _

theorem fetchOffence_of_odd {pc : Word} (hodd : pc.toNat % 2 = 1) : fetchOffence pc = some ⟨.fetchMisaligned, pc⟩ := by
  simp [fetchOffence, BitVec.getLsbD, hodd]

theorem fetchOffence_of_outside {pc : Word} (heven : pc.toNat % 2 = 0) (hpc : 0xFFE < pc.toNat) :
    fetchOffence pc = some ⟨.fetchOutOfBounds, pc⟩ := by
  simp [fetchOffence, BitVec.getLsbD, heven, hpc]

theorem step_of_front_error {s t : State} (h : s.front = .error t) : step s = .next t := by
  rw [step, h]

theorem step_of_front_ok {s : State} {i : Instr} (h : s.front = .ok i) : step s = exec i s := by
  rw [step, h]

/-! ### What Fx55 and Fx33 leave in memory (R223, R224) -/

/-- A block that lies between the font and the end of memory passes the write test. -/
theorem firstOffence_write_inside {a n : Nat} (ha : 0x050 ≤ a) (hn : a + n ≤ 0x1000) :
    firstOffence writeOffence a n = none := by
  rw [firstOffence_eq_none]
  intro k hk
  rw [writeOffence_eq_none]
  omega

theorem exec_ldMemVx_mem {x : Reg} {s t : State} (ha : 0x050 ≤ s.index.toNat) (hx : s.index.toNat + x.val ≤ 0xFFF)
    (h : exec (.ldMemVx x) s = .next t) : t.mem = s.mem.writeBlock s.dataAddr (s.regBlock x) := by
  have hinside : firstOffence writeOffence s.dataAddr (blockLen x) = none :=
    firstOffence_write_inside ha (Nat.succ_le_succ hx)
  rw [exec, execLdMemVx, hinside, guarded_none] at h
  cases h
  rfl

theorem exec_ldB_mem {x : Reg} {s t : State} (ha : 0x050 ≤ s.index.toNat) (hx : s.index.toNat + 2 ≤ 0xFFF)
    (h : exec (.ldB x) s = .next t) : t.mem = s.mem.writeBlock s.dataAddr (bcdDigits (s.reg x)) := by
  have hinside : firstOffence writeOffence s.dataAddr 3 = none := firstOffence_write_inside ha (Nat.succ_le_succ hx)
  rw [exec, execLdB, hinside, guarded_none] at h
  cases h
  rfl

end Sys2Proof.Machine

namespace Sys2Proof.Spec

open Sys2Proof.Machine

theorem read_writeBlock_regBlock (s : State) (x : Reg) (a : Nat) :
    (s.mem.writeBlock s.dataAddr (s.regBlock x)).read a = byteAfterBlock s x a := by
  have hblock : (s.regBlock x).length = x.val + 1 := s.length_regBlock x
  rw [Memory.read_writeBlock, byteAfterBlock, State.dataAddr]
  by_cases hin : s.index.toNat ≤ a ∧ a ≤ s.index.toNat + x.val
  · have hk : a - s.index.toNat < 16 := by omega
    rw [dif_pos (by rw [hblock]; omega), if_pos hin, State.getElem_regBlock]
    simp only [State.reg, Fin.val_ofNat, Nat.mod_eq_of_lt hk]
  · rw [dif_neg (by rw [hblock]; omega), if_neg hin]

theorem read_writeBlock_bcdDigits (s : State) (x : Reg) (a : Nat) :
    (s.mem.writeBlock s.dataAddr (bcdDigits (s.reg x))).read a = byteAfterDigits s x a := by
  simp only [bcdDigits, Memory.writeBlock, Memory.read_write, byteAfterDigits, State.dataAddr]
  by_cases h0 : a = s.index.toNat
  · simp [h0, Nat.add_assoc]
  · by_cases h1 : a = s.index.toNat + 1
    · simp [h1]
    · simp [h0, h1]

/-- A step at a PC that can be fetched from runs the word that stands there. -/
theorem runsWord_fetchedWord {s : State} (hf : s.faulted = false) (hfetch : Fetchable s) :
    RunsWord (fetchedWord s) s := by
  have hok := fetchable_iff.1 hfetch
  rw [← wordAt_pc]
  cases hd : decode (s.wordAt s.pc.toNat) with
  | ok i => exact .inl ⟨i, hd, step_of_front_ok (front_ok.2 ⟨hf, hok, hd⟩)⟩
  | error e => exact .inr ⟨e, _, hd, step_of_front_error (front_of_reject hf hok hd), rfl⟩

/-- The same, with the two bytes given. -/
theorem runsWord_of_read {s : State} (hf : s.faulted = false) (hfetch : Fetchable s) {hi lo : Byte}
    (hhi : s.mem.read s.pc.toNat = hi) (hlo : s.mem.read (s.pc.toNat + 1) = lo) :
    RunsWord (BitVec.ofNat 16 (hi.toNat * 256 + lo.toNat)) s := by
  subst hhi hlo
  exact runsWord_fetchedWord hf hfetch

/-- Settles O17, from what an event can do to memory: nothing, or a block write whose every byte passes the write test,
which no byte of the font block passes. -/
theorem fontIsImmutable : Obligations.FontIsImmutable :=
  fun _ _ _ he h _ ha => onEvent_read_font he h ha

/-- Settles O7: the two offences of the fetch end the step with their fault, and a fetch without one has its word run. -/
theorem fetchWordPrimitive : Obligations.FetchWordPrimitive := by
  intro s hf
  refine ⟨fun hodd => ?_, fun heven hpc => ?_, fun heven hpc => runsWord_fetchedWord hf ⟨heven, hpc⟩⟩
  · exact ⟨_, step_of_front_error (front_of_fetchOffence hf (fetchOffence_of_odd hodd)), rfl⟩
  · exact ⟨_, step_of_front_error (front_of_fetchOffence hf (fetchOffence_of_outside heven hpc)), rfl⟩

/-- Settles O42: a fetch reads the memory that the block write left, byte by byte. -/
theorem storedCodeIsFetched : Obligations.StoredCodeIsFetched := by
  constructor
  · intro x s t u ha hx h hmem hf hfetch
    have hread (a : Nat) : u.mem.read a = byteAfterBlock s x a := by
      rw [hmem, exec_ldMemVx_mem ha hx h, read_writeBlock_regBlock]
    exact runsWord_of_read hf hfetch (hread _) (hread _)
  · intro x s t u ha hx h hmem hf hfetch
    have hread (a : Nat) : u.mem.read a = byteAfterDigits s x a := by
      rw [hmem, exec_ldB_mem ha hx h, read_writeBlock_bcdDigits]
    exact runsWord_of_read hf hfetch (hread _) (hread _)

end Sys2Proof.Spec
end

section
/-! PROOFS. The encoding (R80 to R87): the fields of a word laid out in a format, the decoder on every word, and the two
round trips between words and instructions. -/

namespace Sys2Proof

open Spec

/-! ### The fields of a word laid out in a format (R81, R82) -/

@[simp] theorem catField_wordNNN (c : BitVec 4) (nnn : Addr12) : catField (wordNNN c nnn) = c :=
  BitVec.extractLsb'_append_eq_left

@[simp] theorem nnnField_wordNNN (c : BitVec 4) (nnn : Addr12) : nnnField (wordNNN c nnn) = nnn :=
  BitVec.extractLsb'_append_eq_right

@[simp] theorem catField_wordXKK (c : BitVec 4) (x : Reg) (kk : Byte) : catField (wordXKK c x kk) = c := by
  rw [catField, wordXKK, BitVec.extractLsb'_append_eq_of_le (by decide)]
  exact BitVec.extractLsb'_append_eq_left

@[simp] theorem xField_wordXKK (c : BitVec 4) (x : Reg) (kk : Byte) : xField (wordXKK c x kk) = x := by
  rw [xField, wordXKK, BitVec.extractLsb'_append_eq_of_le (by decide)]
  exact congrArg BitVec.toFin BitVec.extractLsb'_append_eq_right

@[simp] theorem kkField_wordXKK (c : BitVec 4) (x : Reg) (kk : Byte) : kkField (wordXKK c x kk) = kk :=
  BitVec.extractLsb'_append_eq_right

@[simp] theorem catField_wordXYN (c : BitVec 4) (x y : Reg) (n : Nibble) : catField (wordXYN c x y n) = c := by
  rw [catField, wordXYN, BitVec.extractLsb'_append_eq_of_le (by decide), BitVec.extractLsb'_append_eq_of_le (by decide)]
  exact BitVec.extractLsb'_append_eq_left

@[simp] theorem xField_wordXYN (c : BitVec 4) (x y : Reg) (n : Nibble) : xField (wordXYN c x y n) = x := by
  rw [xField, wordXYN, BitVec.extractLsb'_append_eq_of_le (by decide), BitVec.extractLsb'_append_eq_of_le (by decide)]
  exact congrArg BitVec.toFin BitVec.extractLsb'_append_eq_right

@[simp] theorem yField_wordXYN (c : BitVec 4) (x y : Reg) (n : Nibble) : yField (wordXYN c x y n) = y := by
  rw [yField, wordXYN, BitVec.extractLsb'_append_eq_of_le (by decide)]
  exact congrArg BitVec.toFin BitVec.extractLsb'_append_eq_right

@[simp] theorem nField_wordXYN (c : BitVec 4) (x y : Reg) (n : Nibble) : nField (wordXYN c x y n) = n :=
  BitVec.extractLsb'_append_eq_right

/-! A word is laid out from its own fields, in each format. -/

theorem wordNNN_of_catField {w : Word} {c : BitVec 4} (hc : catField w = c) : wordNNN c (nnnField w) = w := by
  subst hc
  exact BitVec.extractLsb'_append_extractLsb'

theorem catField_append_xField (w : Word) : catField w ++ BitVec.ofFin (w := 4) (xField w) = hiByte w :=
  BitVec.extractLsb'_append_extractLsb'_eq_extractLsb' rfl

theorem wordXKK_of_catField {w : Word} {c : BitVec 4} (hc : catField w = c) :
    wordXKK c (xField w) (kkField w) = w := by
  subst hc
  rw [wordXKK, catField_append_xField]
  exact BitVec.extractLsb'_append_extractLsb'

theorem wordXYN_of_catField {w : Word} {c : BitVec 4} (hc : catField w = c) :
    wordXYN c (xField w) (yField w) (nField w) = w := by
  subst hc
  have hmid : hiByte w ++ BitVec.ofFin (w := 4) (yField w) = w.extractLsb' 4 12 :=
    BitVec.extractLsb'_append_extractLsb'_eq_extractLsb' rfl
  rw [wordXYN, catField_append_xField, hmid]
  exact BitVec.extractLsb'_append_extractLsb'

/-! ### Decoding a word that was laid out (R84) -/

theorem decode_wordXYN_8 (x y : Reg) (n : Nibble) : decode (wordXYN 0x8#4 x y n) = decode8 x y n := by
  simp [decode]

theorem decode_wordXKK_E (x : Reg) (kk : Byte) : decode (wordXKK 0xE#4 x kk) = decodeE x kk := by
  simp [decode]

theorem decode_wordXKK_F (x : Reg) (kk : Byte) : decode (wordXKK 0xF#4 x kk) = decodeF x kk := by
  simp [decode]

/-- The decoder undoes the encoder: by the category, and in 0x8, 0xE and 0xF by the selector as well. -/
theorem decode_encode (i : Instr) : decode (encode i) = .ok i := by
  cases i
  case cls | ret => rfl
  case jp | call | ldI | jpV0 => simp [encode, decode]
  case seImm | sneImm | ldImm | addImm | rnd => simp [encode, decode]
  case seReg | sneReg | drw => simp [encode, decode]
  case ldReg | orReg | andReg | xorReg | addReg | sub | shr | subn | shl => exact decode_wordXYN_8 ..
  case skp | sknp => exact decode_wordXKK_E ..
  case ldVxDt | ldVxK | ldDtVx | ldStVx | addI | ldF | ldB | ldMemVx | ldVxMem => exact decode_wordXKK_F ..

/-! ### The illegal words by their fields (R86) -/

theorem catField_toNat (w : Word) : (catField w).toNat = w.toNat / 4096 := by
  have hw := w.isLt
  rw [catField, BitVec.extractLsb'_toNat, Nat.shiftRight_eq_div_pow]
  omega

theorem nField_toNat (w : Word) : (nField w).toNat = w.toNat % 16 := by
  simp [nField]

theorem kkField_toNat (w : Word) : (kkField w).toNat = w.toNat % 256 := by
  simp [kkField]

theorem illegalWord_iff_fields (w : Word) : IllegalWord w ↔
    (catField w = 0x0#4 ∧ w ≠ 0x00E0#16 ∧ w ≠ 0x00EE#16) ∨
    (catField w = 0x8#4 ∧ nField w ∈ [0x8#4, 0x9#4, 0xA#4, 0xB#4, 0xC#4, 0xD#4, 0xF#4]) ∨
    (catField w = 0xE#4 ∧ kkField w ∉ [0x9E#8, 0xA1#8]) ∨
    (catField w = 0xF#4 ∧
      kkField w ∉ [0x07#8, 0x0A#8, 0x15#8, 0x18#8, 0x1E#8, 0x29#8, 0x33#8, 0x55#8, 0x65#8]) := by
  simp [IllegalWord, ← BitVec.toNat_inj, catField_toNat, nField_toNat, kkField_toNat]

/-! ### Decoding any word (R84, R86) -/

/-- What the decoder may answer for the word w when `illegal` says whether w is an illegal word: the instruction that w
encodes, or a rejection. -/
def AnswersFor (w : Word) (illegal : Prop) : Except Reject Instr → Prop
  | .ok i => encode i = w ∧ ¬ illegal
  | .error _ => illegal

theorem AnswersFor.congr {w : Word} {p q : Prop} {r : Except Reject Instr} (h : AnswersFor w p r) (hpq : q ↔ p) :
    AnswersFor w q r := by
  rwa [propext hpq]

theorem AnswersFor.ite {w : Word} {p q : Prop} [Decidable q] {a b : Except Reject Instr} (ha : q → AnswersFor w p a)
    (hb : ¬ q → AnswersFor w p b) : AnswersFor w p (if q then a else b) := by
  split_ifs with h
  · exact ha h
  · exact hb h

theorem decode0_answersFor (w : Word) : AnswersFor w (w ≠ 0x00E0#16 ∧ w ≠ 0x00EE#16) (decode0 w) := by
  unfold decode0
  split_ifs with hcls hret
  · exact ⟨hcls.symm, fun h => h.1 hcls⟩
  · exact ⟨hret.symm, fun h => h.2 hret⟩
  · exact ⟨hcls, hret⟩

theorem decode8_answersFor (x y : Reg) (n : Nibble) :
    AnswersFor (wordXYN 0x8#4 x y n) (n ∈ [0x8#4, 0x9#4, 0xA#4, 0xB#4, 0xC#4, 0xD#4, 0xF#4]) (decode8 x y n) := by
  unfold decode8
  split_ifs
  case neg =>
    show n ∈ _
    revert n
    decide
  all_goals
    subst n
    exact ⟨rfl, by decide⟩

theorem decodeE_answersFor (x : Reg) (kk : Byte) :
    AnswersFor (wordXKK 0xE#4 x kk) (kk ∉ [0x9E#8, 0xA1#8]) (decodeE x kk) := by
  unfold decodeE
  split_ifs
  case neg h1 h2 => simp [AnswersFor, h1, h2]
  all_goals
    subst kk
    exact ⟨rfl, by decide⟩

theorem decodeF_answersFor (x : Reg) (kk : Byte) :
    AnswersFor (wordXKK 0xF#4 x kk)
      (kk ∉ [0x07#8, 0x0A#8, 0x15#8, 0x18#8, 0x1E#8, 0x29#8, 0x33#8, 0x55#8, 0x65#8]) (decodeF x kk) := by
  unfold decodeF
  split_ifs
  case neg => simp [AnswersFor, *]
  all_goals
    subst kk
    exact ⟨rfl, by decide⟩

/-! The same by the category of the word, with R86's table for the words that are rejected. -/

section Categories

variable {w : Word}

/-- Outside the categories 0x0, 0x8, 0xE and 0xF every word is an instruction. -/
theorem AnswersFor.ofCategory {c : BitVec 4} {i : Instr} (hc : catField w = c) (hi : encode i = w)
    (hlegal : c ∉ [0x0#4, 0x8#4, 0xE#4, 0xF#4] := by decide) : AnswersFor w (IllegalWord w) (.ok i) := by
  subst hc
  simp only [List.mem_cons, List.not_mem_nil, or_false, not_or] at hlegal
  exact ⟨hi, by simp [illegalWord_iff_fields, hlegal]⟩

theorem decode0_answersFor_of_catField (hc : catField w = 0x0#4) : AnswersFor w (IllegalWord w) (decode0 w) :=
  (decode0_answersFor w).congr (by simp [illegalWord_iff_fields, hc])

theorem decode8_answersFor_of_catField (hc : catField w = 0x8#4) :
    AnswersFor w (IllegalWord w) (decode8 (xField w) (yField w) (nField w)) := by
  have h := decode8_answersFor (xField w) (yField w) (nField w)
  rw [wordXYN_of_catField hc] at h
  exact h.congr (by simp [illegalWord_iff_fields, hc])

theorem decodeE_answersFor_of_catField (hc : catField w = 0xE#4) :
    AnswersFor w (IllegalWord w) (decodeE (xField w) (kkField w)) := by
  have h := decodeE_answersFor (xField w) (kkField w)
  rw [wordXKK_of_catField hc] at h
  exact h.congr (by simp [illegalWord_iff_fields, hc])

theorem decodeF_answersFor_of_catField (hc : catField w = 0xF#4) :
    AnswersFor w (IllegalWord w) (decodeF (xField w) (kkField w)) := by
  have h := decodeF_answersFor (xField w) (kkField w)
  rw [wordXKK_of_catField hc] at h
  exact h.congr (by simp [illegalWord_iff_fields, hc])

/-- Everything the decoder can answer: it rejects an illegal word, and takes any other to the instruction it encodes. -/
theorem decode_answersFor (w : Word) : AnswersFor w (IllegalWord w) (decode w) := by
  simp only [decode]
  refine .ite decode0_answersFor_of_catField fun _ => ?_
  refine .ite (fun hc => .ofCategory hc (wordNNN_of_catField hc)) fun _ => ?_
  refine .ite (fun hc => .ofCategory hc (wordNNN_of_catField hc)) fun _ => ?_
  refine .ite (fun hc => .ofCategory hc (wordXKK_of_catField hc)) fun _ => ?_
  refine .ite (fun hc => .ofCategory hc (wordXKK_of_catField hc)) fun _ => ?_
  refine .ite (fun hc => .ofCategory hc (wordXYN_of_catField hc)) fun _ => ?_
  refine .ite (fun hc => .ofCategory hc (wordXKK_of_catField hc)) fun _ => ?_
  refine .ite (fun hc => .ofCategory hc (wordXKK_of_catField hc)) fun _ => ?_
  refine .ite decode8_answersFor_of_catField fun _ => ?_
  refine .ite (fun hc => .ofCategory hc (wordXYN_of_catField hc)) fun _ => ?_
  refine .ite (fun hc => .ofCategory hc (wordNNN_of_catField hc)) fun _ => ?_
  refine .ite (fun hc => .ofCategory hc (wordNNN_of_catField hc)) fun _ => ?_
  refine .ite (fun hc => .ofCategory hc (wordXKK_of_catField hc)) fun _ => ?_
  refine .ite (fun hc => .ofCategory hc (wordXYN_of_catField hc)) fun _ => ?_
  refine .ite decodeE_answersFor_of_catField fun _ => ?_
  have hF : catField w = 0xF#4 := by bv_omega
  exact decodeF_answersFor_of_catField hF

end Categories

theorem encode_of_decode {w : Word} {i : Instr} (h : decode w = .ok i) : encode i = w := by
  have hw := decode_answersFor w
  rw [h] at hw
  exact hw.1

theorem decode_error_iff (w : Word) : (∃ e, decode w = .error e) ↔ IllegalWord w := by
  have hw := decode_answersFor w
  cases hd : decode w with
  | ok i =>
    rw [hd] at hw
    simpa using hw.2
  | error e =>
    rw [hd] at hw
    exact ⟨fun _ => hw, fun _ => ⟨e, rfl⟩⟩

/-! ### The formats by number (R82) -/

/-- Appending y below x multiplies x by the number of values y can take. -/
theorem toNat_append_eq {m n : Nat} (x : BitVec m) (y : BitVec n) : (x ++ y).toNat = x.toNat * 2 ^ n + y.toNat := by
  rw [BitVec.toNat_append, ← Nat.shiftLeft_add_eq_or_of_lt y.isLt, Nat.shiftLeft_eq]

theorem patNNN_eq_wordNNN (cat : Nat) (nnn : Addr12) : patNNN cat nnn = wordNNN (BitVec.ofNat 4 cat) nnn := by
  apply BitVec.eq_of_toNat_eq
  simp only [patNNN, wordNNN, toNat_append_eq, BitVec.toNat_ofNat]
  omega

theorem patXKK_eq_wordXKK (cat : Nat) (x : Reg) (kk : Byte) :
    patXKK cat x kk = wordXKK (BitVec.ofNat 4 cat) x kk := by
  apply BitVec.eq_of_toNat_eq
  simp only [patXKK, wordXKK, toNat_append_eq, BitVec.toNat_ofNat, BitVec.toNat_ofFin]
  omega

theorem patXYN_eq_wordXYN (cat : Nat) (x y : Reg) (n : Nibble) :
    patXYN cat x y n = wordXYN (BitVec.ofNat 4 cat) x y n := by
  apply BitVec.eq_of_toNat_eq
  simp only [patXYN, wordXYN, toNat_append_eq, BitVec.toNat_ofNat, BitVec.toNat_ofFin]
  omega

end Sys2Proof

namespace Sys2Proof.Spec

open Sys2Proof.Machine

/-- Settles O1: the fields of a word laid out in a format are those it was laid out from. -/
theorem decodeOfEncode : Obligations.DecodeOfEncode := decode_encode

/-- Settles O2: every instruction the decoder answers is laid out from the fields of the word, all of it. -/
theorem encodeOfDecode : Obligations.EncodeOfDecode := fun _ _ => encode_of_decode

/-- Settles O4: the decoder answers an illegal word with a rejection, and any other with an instruction. -/
theorem rejectedWordsAreTheIllegalOnes : Obligations.RejectedWordsAreTheIllegalOnes := decode_error_iff

/-- Settles O3: each pattern is the word of its instruction, which decodes to it. -/
theorem decoderFollowsOpcodeMap : Obligations.DecoderFollowsOpcodeMap := by
  unfold Obligations.DecoderFollowsOpcodeMap
  simp only [patNNN_eq_wordNNN, patXKK_eq_wordXKK, patXYN_eq_wordXYN]
  exact ⟨decode_encode .cls, decode_encode .ret,
    fun nnn => ⟨decode_encode (.jp nnn), decode_encode (.call nnn), decode_encode (.ldI nnn),
      decode_encode (.jpV0 nnn)⟩,
    fun x kk => ⟨decode_encode (.seImm x kk), decode_encode (.sneImm x kk), decode_encode (.ldImm x kk),
      decode_encode (.addImm x kk), decode_encode (.rnd x kk)⟩,
    fun x y n => ⟨decode_encode (.seReg x y n), decode_encode (.sneReg x y n), decode_encode (.drw x y n)⟩,
    fun x y => ⟨decode_encode (.ldReg x y), decode_encode (.orReg x y), decode_encode (.andReg x y),
      decode_encode (.xorReg x y), decode_encode (.addReg x y), decode_encode (.sub x y), decode_encode (.shr x y),
      decode_encode (.subn x y), decode_encode (.shl x y)⟩,
    fun x => ⟨decode_encode (.skp x), decode_encode (.sknp x), decode_encode (.ldVxDt x), decode_encode (.ldVxK x),
      decode_encode (.ldDtVx x), decode_encode (.ldStVx x), decode_encode (.addI x), decode_encode (.ldF x),
      decode_encode (.ldB x), decode_encode (.ldMemVx x), decode_encode (.ldVxMem x)⟩,
    fun w => (decode_error_iff w).2⟩

/-- Settles O8: a fetched illegal word is rejected, so the step that runs it takes the fault. -/
theorem illegalWordFaults : Obligations.IllegalWordFaults := by
  intro s hf hfetch hill
  obtain ⟨e, he⟩ := (decode_error_iff _).2 hill
  rcases runsWord_fetchedWord hf hfetch with ⟨i, hok, -⟩ | ⟨_, t, -, hstep, htaken⟩
  · rw [he] at hok
    cases hok
  · exact ⟨t, hstep, htaken⟩

/-- Settles O5: each worked word is the word of its instruction. -/
theorem workedWordsDecode : Obligations.WorkedWordsDecode :=
  ⟨decode_encode (.ldImm 0xA 0x2F#8), decode_encode (.addReg 0x0 0x1), decode_encode (.jp 0x234#12),
    decode_encode (.ldI 0x300#12), decode_encode (.drw 0x3 0x4 0x5#4), decode_encode (.seReg 0x1 0x2 0x3#4),
    decode_encode (.skp 0x0)⟩

end Sys2Proof.Spec
end

section
/-! PROOFS. The engine cycle (R112 to R115, R123): a step runs the instruction at PC, every step answers, a fault leaves
the state before it plus the record, and the self-jump is the idle end. -/

namespace Sys2Proof.Machine

/-! ### The instruction at PC -/

/-- Outside FAULTED, a fetchable word that decodes is what the step runs (R112). -/
theorem step_of_decode {s : State} {i : Instr} (hf : s.faulted = false) (hfetch : Fetchable s)
    (hd : decode (fetchedWord s) = .ok i) : step s = exec i s :=
  step_of_front_ok (front_ok.2 ⟨hf, fetchable_iff.1 hfetch, (wordAt_pc s).symm ▸ hd⟩)

/-- The instruction that a step runs is laid out as the word at PC (R112; log 6). -/
theorem encode_of_front {s : State} {i : Instr} (h : s.front = .ok i) : encode i = fetchedWord s := by
  obtain ⟨-, -, hd⟩ := front_ok.1 h
  rw [encode_of_decode hd, wordAt_pc]

/-! ### Every step answers (R112, R320) -/

/-- A guard stops nothing: it takes its fault as a next state, or answers the effect (R324). -/
theorem guarded_answers {o : Option Raise} {i : Instr} {s : State} {e : Result} (he : ∃ t, e = .next t) :
    ∃ t, guarded o i s e = .next t := by
  cases o with
  | none => exact he
  | some r => exact ⟨_, guarded_some r i s e⟩

theorem exec_answers (i : Instr) (s : State) : ∃ t, exec i s = .next t := by
  cases i
  case ret | call | drw | ldB | ldMemVx | ldVxMem | skp | sknp => exact guarded_answers ⟨_, rfl⟩
  case ldVxK =>
    simp only [exec, execLdVxK]
    cases s.lowestKey <;> exact ⟨_, rfl⟩
  all_goals exact ⟨_, rfl⟩

theorem step_answers (s : State) : ∃ t, step s = .next t := by
  rcases step_cases s with ⟨t, -, hstep⟩ | ⟨i, -, hstep⟩
  · exact ⟨t, hstep⟩
  · exact hstep ▸ exec_answers i s

/-! ### Faults leave the state before them (R115, R324) -/

/-- What FAULT_WORD records: the word at PC, or 0x0000 for the two codes of a fetch (R324). -/
def recordedWord (s : State) (c : FaultCode) : Word :=
  if c = .fetchMisaligned ∨ c = .fetchOutOfBounds then 0x0000#16 else fetchedWord s

theorem recordedWord_of_fetchOffence (s : State) {r : Raise} (h : fetchOffence s.pc = some r) :
    recordedWord s r.code = 0x0000#16 :=
  if_pos (by simpa using fetchOffence_code h)

/-- No instruction raises the code of a fetch (R322), so its own word is recorded. -/
theorem recordedWord_of_mem_ownFaults (s : State) {i : Instr} {c : FaultCode} (h : c ∈ ownFaults i) :
    recordedWord s c = fetchedWord s := by
  refine if_neg ?_
  rintro (rfl | rfl) <;> cases i <;> simp [ownFaults] at h

/-- Everything a faulting step can do: the fetch raises, or the word at PC is illegal, or its instruction raises. -/
theorem step_takes_fault {s t : State} (hs : s.faulted = false) (h : step s = .next t) (ht : t.faulted = true) :
    ∃ r, r.code ≠ .none ∧ t = s.takeFault r (recordedWord s r.code) := by
  rcases step_cases s with ⟨u, hfront, hstep⟩ | ⟨i, hfront, hstep⟩
  · cases hstep.symm.trans h
    rcases front_error hfront with ⟨hf, -⟩ | ⟨-, r, hr, rfl⟩ | ⟨-, -, -, rfl⟩
    · simp [hs] at hf
    · have hcode := fetchOffence_code hr
      exact ⟨r, fun hnone => by simp [hnone] at hcode, by rw [recordedWord_of_fetchOffence s hr]⟩
    · exact ⟨⟨.illegalOpcode, s.pc⟩, FaultCode.noConfusion, by rw [wordAt_pc]; rfl⟩
  · rcases exec_cases (hstep.symm.trans h) with ⟨r, hr, rfl⟩ | ⟨-, -, hframe⟩
    · refine ⟨r, fun hnone => none_not_mem_ownFaults i (hnone ▸ hr), ?_⟩
      rw [encode_of_front hfront, recordedWord_of_mem_ownFaults s hr]
    · obtain ⟨-, -, -, -, -, -, -, -, -, hkept, -⟩ := hframe
      simp [hkept, hs] at ht

/-! ### The idle end (R123, R182) -/

/-- The word of the idle end is the jump to its own address. -/
theorem decode_idleEnd {s : State} (h : IdleEnd s) :
    ∃ nnn, zextAddr nnn = s.pc ∧ decode (fetchedWord s) = .ok (.jp nnn) := by
  obtain ⟨-, ⟨-, hpc⟩, hword⟩ := h
  have hnnn : (BitVec.ofNat 12 s.pc.toNat).toNat = s.pc.toNat := by
    rw [BitVec.toNat_ofNat]
    omega
  refine ⟨BitVec.ofNat 12 s.pc.toNat, ?_, ?_⟩
  · rw [zextAddr_eq_ofNat, hnnn, BitVec.ofNat_toNat, BitVec.setWidth_eq]
  · have hjump : fetchedWord s = encode (.jp (BitVec.ofNat 12 s.pc.toNat)) := by
      apply BitVec.eq_of_toNat_eq
      rw [hword, encode, wordNNN, toNat_append_eq, hnnn]
      rfl
    rw [hjump, decode_encode]

/-- A jump to its own address writes nothing once STARTED is set. -/
theorem exec_jp_self {s : State} {nnn : Addr12} (hself : zextAddr nnn = s.pc) (hstarted : s.started = true) :
    exec (.jp nnn) s = .next s := by
  simp [exec, execJp, jump, finish, State.setPc, State.start, hself, ← hstarted]

end Sys2Proof.Machine

namespace Sys2Proof.Spec

open Sys2Proof.Machine

/-- Settles O10, from what a faulting step can do: wherever a fault is taken, it adds the record to the state before the
step and nothing else. -/
theorem faultsArePrecise : Obligations.FaultsArePrecise := by
  intro s t hs h ht
  obtain ⟨r, hnone, rfl⟩ := step_takes_fault hs h ht
  exact ⟨r.code, r.addr, hnone, rfl⟩

/-- Settles O12, from what an instruction can do: it takes a fault, or completes with PC as the law has it. -/
theorem pcAdvanceLaw : Obligations.PcAdvanceLaw := by
  intro i s t _ h ht
  rcases exec_cases h with ⟨r, -, rfl⟩ | ⟨hpc, -⟩
  · simp at ht
  · exact hpc

/-- Settles O13: the host's own events answer by definition, and a step does because every instruction does. -/
theorem everyEventIsAnswered : Obligations.EveryEventIsAnswered := by
  intro s e
  cases e with
  | step => exact step_answers s
  | tick | keyWrite | load | fbAck | reset => exact ⟨_, rfl⟩

/-- Settles O58: the word of the idle end is the jump to its own address, which writes what is there already. -/
theorem idleStepChangesNothing : Obligations.IdleStepChangesNothing := by
  intro s hidle hstarted
  obtain ⟨nnn, hself, hd⟩ := decode_idleEnd hidle
  obtain ⟨hf, hfetch, -⟩ := hidle
  rw [step_of_decode hf hfetch hd, exec_jp_self hself hstarted]

/-- Settles O6: outside FAULTED nothing stands between a word that decodes and its instruction. -/
theorem stepRunsDecodedInstruction : Obligations.StepRunsDecodedInstruction :=
  fun _ _ => step_of_decode

end Sys2Proof.Spec
end

section
/-! PROOFS. The host's events and the outputs (R116 to R121, R360): what each event writes, that the invariants survive
it, and that a program loaded byte by byte is in place. -/

namespace Sys2Proof.Machine

/-! ### The gate of R116 -/

theorem State.unlessFaulted_of_faulted {s : State} (h : s.faulted = true) (t : State) : s.unlessFaulted t = s :=
  if_pos h

theorem State.unlessFaulted_of_not_faulted {s : State} (h : s.faulted = false) (t : State) : s.unlessFaulted t = t := by
  simp [State.unlessFaulted, h]

/-- In FAULTED no event but reset changes the state. -/
theorem onEvent_of_faulted {s : State} (h : s.faulted = true) {e : Event} (he : e ≠ .reset) :
    s.onEvent e = .next s := by
  cases e with
  | step => exact step_of_front_error (front_of_faulted h)
  | tick | keyWrite | load | fbAck => exact congrArg _ (State.unlessFaulted_of_faulted h _)
  | reset => exact absurd rfl he

/-! ### What the host's events write -/

/-- One less, floored at 0: subtraction of natural numbers (R117). -/
theorem toNat_countDown (b : Byte) : (countDown b).toNat = b.toNat - 1 := by
  unfold countDown
  split
  · next h => simp [h]
  · next h => bv_omega

/-- A load that is not ignored writes its byte (R119). -/
theorem State.load_of_accepted {s : State} (hs : s.started = false) {addr : Addr12} (ha : 0x200 ≤ addr.toNat)
    (data : Byte) : s.load addr data = s.setMem (s.mem.write addr.toNat data) := by
  simp [State.load, hs, Config.programBase, Nat.not_lt.2 ha]

/-- A load is ignored once STARTED is set, and below 0x200 (R119). -/
theorem State.load_of_ignored {s : State} {addr : Addr12} (h : s.started = true ∨ addr.toNat < 0x200) (data : Byte) :
    s.load addr data = s := by
  rcases h with hs | ha
  · simp [State.load, hs]
  · simp [State.load, Config.programBase, ha]

/-- The items that the host's events other than reset may write (R117 to R120). Everything else is as before. -/
theorem onEvent_host_frame {s t : State} {e : Event} (hstep : e ≠ .step) (hreset : e ≠ .reset)
    (h : s.onEvent e = .next t) :
    t = { s with dt := t.dt, st := t.st, keys := t.keys, mem := t.mem, fbDirty := t.fbDirty } := by
  cases e with
  | step => exact absurd rfl hstep
  | reset => exact absurd rfl hreset
  | tick | keyWrite | fbAck =>
    cases h
    rcases s.unlessFaulted_cases _ with hs | ht
    · rw [hs]
    · rw [ht]
      rfl
  | load addr data =>
    cases h
    rcases s.unlessFaulted_cases _ with hs | ht
    · rw [hs]
    · rw [ht]
      by_cases hignored : s.started = true ∨ addr.toNat < 0x200
      · rw [State.load_of_ignored hignored]
      · obtain ⟨hstarted, hlow⟩ := not_or.1 hignored
        rw [State.load_of_accepted (Bool.eq_false_iff.2 hstarted) (Nat.not_lt.1 hlow)]
        rfl

/-! ### The invariants -/

/-- Every event keeps memory in canonical form: its writes pass the write test, and reset lists nothing. -/
theorem onEvent_memoryInv {s t : State} {e : Event} (h : s.onEvent e = .next t) (hs : MemoryInv s) : MemoryInv t := by
  unfold MemoryInv
  by_cases he : e = .reset
  · subst he
    cases h
    exact Memory.wf_reset s.mem.font
  · rcases onEvent_mem he h with hm | ⟨a, bs, hm, hk⟩
    · rw [hm]
      exact hs
    · rw [hm]
      exact Memory.wf_writeBlock_of_tested hs hk

theorem pcInv_resetWith (f : Font) : PcInv (State.resetWith f) := by
  simp [PcInv]

theorem recordInv_resetWith (f : Font) : RecordInv (State.resetWith f) := by
  simp [RecordInv]

/-! ### A program is loaded (R119, R362) -/

theorem State.onEvents_cons {s t : State} {e : Event} (h : s.onEvent e = .next t) (es : List Event) :
    s.onEvents (e :: es) = t.onEvents es := by
  rw [State.onEvents, h]

/-- Loading bytes one by one, from an address of 0x200 or above, stores them as a block. -/
theorem onEvents_loadsFrom {s : State} (hf : s.faulted = false) (hs : s.started = false) {a : Nat} (ha : 0x200 ≤ a)
    {prog : List Byte} (hlen : a + prog.length ≤ 0x1000) :
    s.onEvents (Spec.loadsFrom a prog) = .next (s.setMem (s.mem.writeBlock a prog)) := by
  induction prog generalizing s a with
  | nil => rfl
  | cons b rest ih =>
    rw [List.length_cons] at hlen
    have haddr : (BitVec.ofNat 12 a).toNat = a := by
      rw [BitVec.toNat_ofNat]
      omega
    have hload : s.onEvent (.load (BitVec.ofNat 12 a) b) = .next (s.setMem (s.mem.write a b)) := by
      rw [State.onEvent, State.unlessFaulted_of_not_faulted hf, State.load_of_accepted hs (haddr.symm ▸ ha), haddr]
    rw [Spec.loadsFrom, State.onEvents_cons hload]
    exact ih (s := s.setMem (s.mem.write a b)) hf hs (by omega) (by omega)

/-! ### STATUS (R29) -/

theorem State.status_bits (s : State) : s.status.getLsbD 0 = s.started ∧ s.status.getLsbD 1 = s.faulted ∧
    s.status.getLsbD 2 = s.fbDirty := by
  simp only [State.status, BitVec.getLsbD_append]
  simp

end Sys2Proof.Machine

namespace Sys2Proof.Spec

open Sys2Proof.Machine

/-- Settles O21: the host's events leave PC, the stack and the record, a load writes inside memory, and reset meets the
invariants by itself. -/
theorem hostEventsKeepInvariants : Obligations.HostEventsKeepInvariants := by
  intro s t e hstep hmem hpc hrecord h
  refine ⟨onEvent_memoryInv h hmem, ?_⟩
  by_cases he : e = .reset
  · subst he
    cases h
    exact ⟨pcInv_resetWith s.mem.font, recordInv_resetWith s.mem.font⟩
  · rw [onEvent_host_frame hstep he h]
    exact ⟨hpc, hrecord⟩

/-- Settles O51, from the count of one timer. -/
theorem tickCountsDown : Obligations.TickCountsDown := by
  refine fun s => ⟨_, rfl, fun hf => State.unlessFaulted_of_faulted hf _, fun hf => ?_⟩
  rw [State.unlessFaulted_of_not_faulted hf]
  exact ⟨toNat_countDown s.dt, toNat_countDown s.st, rfl⟩

/-- Settles O53: one load stores one byte, and a program's loads store it as a block, which is then read back. -/
theorem programLoad : Obligations.ProgramLoad := by
  refine ⟨fun addr data s => ⟨_, rfl, fun hignored => ?_, fun hf hs ha => ?_⟩, fun prog s hf hs hlen => ?_⟩
  · rcases hignored with hf | hignored
    · exact State.unlessFaulted_of_faulted hf _
    · rw [State.load_of_ignored hignored]
      exact (s.unlessFaulted_cases s).elim id id
  · rw [State.unlessFaulted_of_not_faulted hf, State.load_of_accepted hs ha]
    refine ⟨?_, fun a hne => ?_, rfl⟩
    · rw [State.setMem_mem, Memory.read_write, if_pos rfl]
    · rw [State.setMem_mem, Memory.read_write, if_neg hne]
  · refine ⟨_, onEvents_loadsFrom hf hs le_rfl (by omega), fun k hk => ?_, fun a ha => ?_, rfl⟩
    · rw [State.setMem_mem, Memory.read_writeBlock, dif_pos (by omega)]
      simp only [Nat.add_sub_cancel_left]
    · rw [State.setMem_mem, Memory.read_writeBlock, dif_neg (by omega)]

/-- Settles O9: every event but reset meets the gate of FAULTED, and reset clears it. -/
theorem faultedStateAbsorbs : Obligations.FaultedStateAbsorbs :=
  fun _ hf => ⟨fun _ he => onEvent_of_faulted hf he, _, rfl, rfl⟩

/-- Settles O52, from the write of one key. -/
theorem keyWriteSetsOneKey : Obligations.KeyWriteSetsOneKey := by
  intro k b s hf
  refine ⟨s.keyWrite k b, congrArg _ (State.unlessFaulted_of_not_faulted hf _), ?_, fun j hj => ?_, rfl⟩
  · exact Vector.getElem_set_self _
  · exact Vector.getElem_set_ne k.isLt j.isLt (Fin.val_ne_of_ne hj.symm)

/-- Settles O54: outside FAULTED the acknowledgement takes place. -/
theorem acknowledgeClearsDirty : Obligations.AcknowledgeClearsDirty :=
  fun _ hf => ⟨_, congrArg _ (State.unlessFaulted_of_not_faulted hf _), rfl⟩

/-- Settles O55: the outputs are the state's own fields, and STATUS is laid out from its three bits. -/
theorem outputsReportState : Obligations.OutputsReportState := by
  exact ⟨fun s => ⟨rfl, by simp [State.soundActive], rfl, rfl, fun _ => rfl, s.status_bits⟩, by decide⟩

end Sys2Proof.Spec
end

section
/-! PROOFS. The ALU family (R140 to R153): what a write of one register and the two phases of a flag-writing instruction
leave when the instruction completes. -/

namespace Sys2Proof.Machine

open Sys2Proof.Spec

/-! ### The numbers of a word decode to its instruction -/

theorem decode_patXKK {cat : Nat} {x : Reg} {kk : Byte} {i : Instr} (h : encode i = wordXKK (BitVec.ofNat 4 cat) x kk) :
    decode (patXKK cat x kk) = .ok i := by
  rw [patXKK_eq_wordXKK, ← h, decode_encode]

theorem decode_patXYN {cat : Nat} {x y : Reg} {n : Nibble} {i : Instr}
    (h : encode i = wordXYN (BitVec.ofNat 4 cat) x y n) : decode (patXYN cat x y n) = .ok i := by
  rw [patXYN_eq_wordXYN, ← h, decode_encode]

/-! ### One register is written -/

/-- An instruction that ends with a write of V[x] alone. -/
theorem advance_setReg (x : Reg) (b : Byte) (s : State) :
    ∃ t, advance (s.setReg x b) = .next t ∧ t.reg x = b ∧ Completed { regs := [x] } (s.pc + 2#16) s t :=
  ⟨_, rfl, s.reg_setReg_same x b, ((UnchangedBut.refl _ s).setReg List.mem_cons_self b).completed rfl⟩

/-! ### Flags as indicators (R153) -/

theorem ind_congr {p q : Prop} [Decidable p] [Decidable q] (h : p ↔ q) : ind p = ind q :=
  if_congr h rfl rfl

theorem ind_of {p : Prop} [Decidable p] (h : p) : ind p = 1#8 := if_pos h

/-- A flag is 0 or 1, so a right shift leaves nothing of it. -/
theorem ind_ushiftRight_one (p : Prop) [Decidable p] : ind p >>> 1 = 0#8 := by
  unfold ind
  split <;> rfl

theorem flagOf_decide (p : Prop) [Decidable p] : flagOf (decide p) = ind p :=
  if_congr decide_eq_true_iff rfl rfl

theorem shiftLeft_one_eq_add (b : Byte) : b <<< 1 = b + b := by
  rw [BitVec.shiftLeft_eq_mul_twoPow]
  exact BitVec.mul_two

theorem getLsbD_zero_iff (b : Byte) : b.getLsbD 0 = true ↔ b.toNat % 2 = 1 :=
  Nat.mod_two_eq_one_iff_testBit_zero.symm

theorem getLsbD_seven_iff (b : Byte) : b.getLsbD 7 = true ↔ b.toNat ≥ 128 := by
  rw [← BitVec.msb_eq_getLsbD_last, BitVec.msb_eq_decide, decide_eq_true_iff]

/-- Subtraction modulo 256, with the borrow added before the difference is taken. -/
theorem toNat_sub_byte (a b : Byte) : (a - b).toNat = (a.toNat + 256 - b.toNat) % 256 := by
  bv_omega

/-! ### The two phases of a flag-writing instruction (R140) -/

/-- What an instruction leaves that writes `flag` to VF, then to V[x] the `result` computed after that write, and
completes. -/
def FlagWritten (x : Reg) (flag : Byte) (result : State → Byte) (s t : State) : Prop :=
  t.reg x = result (s.setReg vf flag) ∧ (x ≠ vf → t.reg vf = flag) ∧ Completed { regs := [x, vf] } (s.pc + 2#16) s t

theorem advance_flagThenResult (flag : Byte) (x : Reg) (result : State → Byte) (s : State) :
    ∃ t, advance (flagThenResult flag x result s) = .next t ∧ FlagWritten x flag result s t := by
  refine ⟨_, rfl, ?_, fun hx => ?_, ((UnchangedBut.refl _ s).flagThenResult List.mem_cons_self
    (List.mem_cons_of_mem _ List.mem_cons_self) flag result).completed rfl⟩
  · simp [reg_flagThenResult]
  · simp [reg_flagThenResult, hx.symm]

/-- The frame of R153: no register but V[x] and VF changes. -/
theorem FlagWritten.reg_other {x : Reg} {flag : Byte} {result : State → Byte} {s t : State}
    (h : FlagWritten x flag result s t) : ∀ r, r ∉ [x, vf] → t.reg r = s.reg r := by
  obtain ⟨-, -, -, -, hregs, -⟩ := h
  exact hregs

/-- What 8xy5, 8xy6, 8xy7 and 8xyE leave: the flag comes from V[x] and V[y], and the result from the two registers as
the write of the flag has left them. -/
def TwoPhase (x y : Reg) (flag result : Byte → Byte → Byte) (s t : State) : Prop :=
  FlagWritten x (flag (s.reg x) (s.reg y)) (fun s1 => result (s1.reg x) (s1.reg y)) s t

/-- V[x] after the two phases: an operand that is VF reads the flag (R148 to R151). -/
theorem TwoPhase.reg_dest {x y : Reg} {flag result : Byte → Byte → Byte} {s t : State}
    (h : TwoPhase x y flag result s t) :
    t.reg x = result (if x = vf then flag (s.reg x) (s.reg y) else s.reg x)
      (if y = vf then flag (s.reg x) (s.reg y) else s.reg y) := by
  obtain ⟨hresult, -⟩ := h
  simp only [hresult, State.reg_setReg]

/-- The columns of R153 for an instruction in two phases. -/
theorem TwoPhase.columns {x y : Reg} {flag result : Byte → Byte → Byte} {s t : State}
    (h : TwoPhase x y flag result s t) :
    (x ≠ vf → y ≠ vf → x ≠ y →
      t.reg vf = flag (s.reg x) (s.reg y) ∧ t.reg x = result (s.reg x) (s.reg y)) ∧
    (x = y → x ≠ vf → t.reg vf = flag (s.reg x) (s.reg x) ∧ t.reg x = result (s.reg x) (s.reg x)) ∧
    (x ≠ vf → y = vf → t.reg vf = flag (s.reg x) (s.reg vf) ∧
      t.reg x = result (s.reg x) (flag (s.reg x) (s.reg vf))) ∧
    (x = vf → y ≠ vf → t.reg vf = result (flag (s.reg vf) (s.reg y)) (s.reg y)) ∧
    (x = vf → y = vf →
      t.reg vf = result (flag (s.reg vf) (s.reg vf)) (flag (s.reg vf) (s.reg vf))) := by
  have hresult := h.reg_dest
  obtain ⟨-, hflag, -⟩ := h
  refine ⟨fun hx hy _ => ⟨hflag hx, ?_⟩, ?_, ?_, ?_, ?_⟩
  · rw [hresult, if_neg hx, if_neg hy]
  · rintro rfl hx
    rw [hresult, if_neg hx]
    exact ⟨hflag hx, rfl⟩
  · rintro hx rfl
    rw [hresult, if_neg hx, if_pos rfl]
    exact ⟨hflag hx, rfl⟩
  · rintro rfl hy
    rw [hresult, if_pos rfl, if_neg hy]
  · rintro rfl rfl
    rw [hresult, if_pos rfl]

/-! ### Each flag-writing instruction (R147 to R151) -/

/-- 8xy4 forms its sum before it writes the flag, so both operands are the registers before the step (R147). -/
theorem exec_addReg (x y : Reg) (s : State) : ∃ t, exec (.addReg x y) s = .next t ∧
    FlagWritten x (ind ((s.reg x).toNat + (s.reg y).toNat > 255)) (fun _ => s.reg x + s.reg y) s t := by
  rw [← flagOf_decide]
  exact advance_flagThenResult _ x _ s

theorem exec_sub (x y : Reg) (s : State) : ∃ t, exec (.sub x y) s = .next t ∧
    TwoPhase x y (fun a b => ind (a.toNat ≥ b.toNat)) (fun a b => a - b) s t := by
  simp only [TwoPhase, ← flagOf_decide]
  exact advance_flagThenResult _ x _ s

theorem exec_shr (x y : Reg) (s : State) : ∃ t, exec (.shr x y) s = .next t ∧
    TwoPhase x y (fun _ b => ind (b.getLsbD 0 = true)) (fun _ b => b >>> 1) s t :=
  advance_flagThenResult _ x _ s

theorem exec_subn (x y : Reg) (s : State) : ∃ t, exec (.subn x y) s = .next t ∧
    TwoPhase x y (fun a b => ind (b.toNat ≥ a.toNat)) (fun a b => b - a) s t := by
  simp only [TwoPhase, ← flagOf_decide]
  exact advance_flagThenResult _ x _ s

theorem exec_shl (x y : Reg) (s : State) : ∃ t, exec (.shl x y) s = .next t ∧
    TwoPhase x y (fun _ b => ind (b.getLsbD 7 = true)) (fun _ b => b + b) s t := by
  simp only [TwoPhase, ← shiftLeft_one_eq_add]
  exact advance_flagThenResult _ x _ s

end Sys2Proof.Machine

namespace Sys2Proof.Spec

open Sys2Proof.Machine

/-- Settles O25, from the instruction's own rule: addition of bytes is addition modulo 256. -/
theorem addRegisters : Obligations.AddRegisters := by
  intro x y s
  obtain ⟨t, hexec, hresult, hflag, hdone⟩ := exec_addReg x y s
  exact ⟨decode_patXYN rfl, t, hexec, by rw [hresult, BitVec.toNat_add], hflag, hdone⟩

/-- Settles O26: the operands of the second phase are those that a write of the flag to VF leaves. -/
theorem subtractRegisters : Obligations.SubtractRegisters := by
  intro x y s
  obtain ⟨t, hexec, h⟩ := exec_sub x y s
  have hresult := h.reg_dest
  obtain ⟨-, hflag, hdone⟩ := h
  refine ⟨decode_patXYN rfl, t, _, _, _, hexec, rfl, rfl, rfl, ?_, hflag, hdone⟩
  rw [hresult, toNat_sub_byte]

/-- Settles O27: bit 0 is the remainder by 2, and a right shift by one halves. -/
theorem shiftRight : Obligations.ShiftRight := by
  intro x y s
  obtain ⟨t, hexec, h⟩ := exec_shr x y s
  have hresult := h.reg_dest
  obtain ⟨-, hflag, hdone⟩ := h
  refine ⟨decode_patXYN rfl, t, _, _, hexec, ind_congr (getLsbD_zero_iff _), rfl, ?_, hflag, hdone⟩
  rw [hresult, BitVec.toNat_ushiftRight, Nat.shiftRight_one]

/-- Settles O28: 8xy7 is 8xy5 with the operands exchanged. -/
theorem subtractReversed : Obligations.SubtractReversed := by
  intro x y s
  obtain ⟨t, hexec, h⟩ := exec_subn x y s
  have hresult := h.reg_dest
  obtain ⟨-, hflag, hdone⟩ := h
  refine ⟨decode_patXYN rfl, t, _, _, _, hexec, rfl, rfl, rfl, ?_, hflag, hdone⟩
  rw [hresult, toNat_sub_byte]

/-- Settles O29: bit 7 is set from 128 on, and a left shift by one doubles. -/
theorem shiftLeft : Obligations.ShiftLeft := by
  intro x y s
  obtain ⟨t, hexec, h⟩ := exec_shl x y s
  have hresult := h.reg_dest
  obtain ⟨-, hflag, hdone⟩ := h
  refine ⟨decode_patXYN rfl, t, _, _, hexec, ind_congr (getLsbD_seven_iff _), rfl, ?_, hflag, hdone⟩
  rw [hresult, BitVec.toNat_add, ← Nat.mul_two]

/-- Settles O30: 8xy4 reads its operands before the flag is written, and the other rows are the columns of an
instruction in two phases at their own flag and result. -/
theorem vfOutcomeTable : Obligations.VfOutcomeTable := by
  intro x y s
  refine ⟨?_, ?_, ?_, ?_, ?_⟩
  · obtain ⟨t, hexec, h⟩ := exec_addReg x y s
    have hother := h.reg_other
    obtain ⟨hresult, hflag, -⟩ := h
    refine ⟨t, hexec, hother, fun hx _ _ => ⟨hflag hx, hresult⟩, ?_, ?_, ?_, ?_⟩
    · rintro rfl hx
      exact ⟨(hflag hx).trans (ind_congr (by omega)), hresult⟩
    · rintro hx rfl
      exact ⟨hflag hx, hresult⟩
    · rintro rfl -
      exact hresult
    · rintro rfl rfl
      exact hresult
  · obtain ⟨t, hexec, h⟩ := exec_sub x y s
    obtain ⟨hdistinct, hsame, hy, hx, hboth⟩ := h.columns
    exact ⟨t, hexec, h.reg_other, hdistinct,
      fun hxy hxf => (hsame hxy hxf).imp (·.trans (ind_of le_rfl)) (·.trans (BitVec.sub_self _)),
      hy, hx, fun hxf hyf => (hboth hxf hyf).trans (BitVec.sub_self _)⟩
  · obtain ⟨t, hexec, h⟩ := exec_shr x y s
    obtain ⟨hdistinct, hsame, hy, hx, hboth⟩ := h.columns
    exact ⟨t, hexec, h.reg_other, hdistinct, hsame,
      fun hxf hyf => (hy hxf hyf).imp_right (·.trans (ind_ushiftRight_one _)),
      hx, fun hxf hyf => (hboth hxf hyf).trans (ind_ushiftRight_one _)⟩
  · obtain ⟨t, hexec, h⟩ := exec_subn x y s
    obtain ⟨hdistinct, hsame, hy, hx, hboth⟩ := h.columns
    exact ⟨t, hexec, h.reg_other, hdistinct,
      fun hxy hxf => (hsame hxy hxf).imp (·.trans (ind_of le_rfl)) (·.trans (BitVec.sub_self _)),
      hy, hx, fun hxf hyf => (hboth hxf hyf).trans (BitVec.sub_self _)⟩
  · obtain ⟨t, hexec, h⟩ := exec_shl x y s
    obtain ⟨hdistinct, hsame, hy, hx, hboth⟩ := h.columns
    exact ⟨t, hexec, h.reg_other, hdistinct, hsame, hy, hx, hboth⟩

/-- Settles O23, from the write of one register. -/
theorem immediateOperations : Obligations.ImmediateOperations := by
  intro x kk s
  refine ⟨⟨decode_patXKK rfl, advance_setReg x kk s⟩, decode_patXKK rfl, ?_⟩
  obtain ⟨t, hexec, hresult, hdone⟩ := advance_setReg x (s.reg x + kk) s
  exact ⟨t, hexec, by rw [hresult, BitVec.toNat_add], hdone⟩

/-- Settles O24, from the write of one register: each operation on bytes works bit by bit. -/
theorem movesAndLogic : Obligations.MovesAndLogic := by
  intro x y s
  refine ⟨⟨decode_patXYN rfl, advance_setReg x (s.reg y) s⟩, ⟨decode_patXYN rfl, ?_⟩, ⟨decode_patXYN rfl, ?_⟩,
    decode_patXYN rfl, ?_⟩
  · obtain ⟨t, hexec, hresult, hdone⟩ := advance_setReg x (s.reg x ||| s.reg y) s
    exact ⟨t, hexec, fun j => by rw [hresult, BitVec.getLsbD_or], hdone⟩
  · obtain ⟨t, hexec, hresult, hdone⟩ := advance_setReg x (s.reg x &&& s.reg y) s
    exact ⟨t, hexec, fun j => by rw [hresult, BitVec.getLsbD_and], hdone⟩
  · obtain ⟨t, hexec, hresult, hdone⟩ := advance_setReg x (s.reg x ^^^ s.reg y) s
    exact ⟨t, hexec, fun j => by rw [hresult, BitVec.getLsbD_xor], hdone⟩

/-- Settles O31: the masked byte is written, and the draw is counted, for whatever byte is drawn. -/
theorem randomByteIsMasked : Obligations.RandomByteIsMasked := by
  intro x kk s
  refine ⟨decode_patXKK rfl, _, rfl, fun j => ?_, rfl,
    (((UnchangedBut.refl _ s).setReg List.mem_cons_self _).drawn rfl).completed rfl⟩
  rw [State.reg_start, State.reg_setPc, State.reg_drawn, maskedRandom, State.reg_setReg_same, BitVec.getLsbD_and]

end Sys2Proof.Spec
end

section
/-! PROOFS. The control-flow family (R181 to R189): what a call and a return do to the stack, and where each instruction
that never faults sends PC. -/

namespace Sys2Proof.Machine

open Sys2Proof.Spec

theorem decode_patNNN {cat : Nat} {nnn : Addr12} {i : Instr} (h : encode i = wordNNN (BitVec.ofNat 4 cat) nnn) :
    decode (patNNN cat nnn) = .ok i := by
  rw [patNNN_eq_wordNNN, ← h, decode_encode]

/-- An instruction that has no fault of its own completes, in every state, with the frame and the PC of its kind. -/
theorem exec_completes {i : Instr} (hi : ownFaults i = []) (s : State) :
    ∃ t, exec i s = .next t ∧ Completed (writes s i) (pcNext s i) s t := by
  obtain ⟨t, hexec⟩ := exec_answers i s
  rcases exec_cases hexec with ⟨r, hr, -⟩ | hdone
  · exact absurd hr (by simp [hi])
  · exact ⟨t, hexec, hdone⟩

/-! ### The top of the stack (R31) -/

theorem State.stack_getElem?_top (s : State) : s.stack[s.sp.val - 1]? = some s.top :=
  Vector.getElem?_eq_getElem _

/-- The top entry is a matter of SP and the stack alone. -/
theorem State.top_congr {s t : State} (hsp : t.sp = s.sp) (hstack : t.stack = s.stack) : t.top = s.top := by
  rw [State.top_eq_getD, State.top_eq_getD, hsp, hstack]

theorem State.push_stack_getElem?_same {s : State} (h : s.sp.val < 16) (w : Word) :
    (s.push w).stack[s.sp.val]? = some w := by
  rw [State.push_stack, Vector.getElem?_setIfInBounds_self_of_lt h]

theorem State.push_stack_getElem?_other (s : State) (w : Word) {k : Nat} (hk : k ≠ s.sp.val) :
    (s.push w).stack[k]? = s.stack[k]? := by
  rw [State.push_stack, Vector.getElem?_setIfInBounds_ne hk.symm]

theorem State.top_push {s : State} (h : s.sp.val < 16) (w : Word) : (s.push w).top = w := by
  have htop := (s.push w).stack_getElem?_top
  rw [State.push_sp_val h, Nat.add_sub_cancel, State.push_stack_getElem?_same h] at htop
  exact (Option.some.inj htop).symm

/-! ### Calls and returns (R181, R183) -/

theorem callOffence_of_full {s : State} (h : s.sp.val = 16) : s.callOffence = some ⟨.stackOverflow, 16#16⟩ :=
  if_pos h

theorem retOffence_of_empty {s : State} (h : s.sp.val = 0) : s.retOffence = some ⟨.stackUnderflow, 0#16⟩ :=
  if_pos h

theorem exec_call_of_full {s : State} (h : s.sp.val = 16) (nnn : Addr12) :
    exec (.call nnn) s = .next (s.takeFault ⟨.stackOverflow, 16#16⟩ (encode (.call nnn))) := by
  rw [exec, execCall, callOffence_of_full h, guarded_some]

theorem exec_call_of_room {s : State} (h : s.sp.val < 16) (nnn : Addr12) :
    exec (.call nnn) s = .next ((s.push (s.pc + 2#16)).setPc (zextAddr nnn)).start := by
  rw [exec, execCall, callOffence_eq_none.2 h, guarded_none, jump, finish]

theorem exec_ret_of_empty {s : State} (h : s.sp.val = 0) :
    exec .ret s = .next (s.takeFault ⟨.stackUnderflow, 0#16⟩ (encode .ret)) := by
  rw [exec, execRet, retOffence_of_empty h, guarded_some]

theorem exec_ret_of_nonempty {s : State} (h : 0 < s.sp.val) :
    exec .ret s = .next (s.pop.setPc s.top).start := by
  rw [exec, execRet, retOffence_eq_none.2 h, guarded_none, jump, finish]

end Sys2Proof.Machine

namespace Sys2Proof.Spec

open Sys2Proof.Machine

/-- Settles O32: SP = 0 decides between the fault and the pop, and PC receives the top entry. -/
theorem returnPopsTheStack : Obligations.ReturnPopsTheStack :=
  ⟨decode_encode .ret, fun s =>
    ⟨fun hempty => ⟨_, exec_ret_of_empty hempty, rfl⟩,
      fun hpos => ⟨_, s.top, exec_ret_of_nonempty hpos, s.pop_sp_val, s.stack_getElem?_top, rfl,
        ((UnchangedBut.refl _ s).pop rfl).completed rfl⟩⟩⟩

/-- Settles O34: SP = 16 decides between the fault and the push of PC + 2. -/
theorem callPushesReturnAddress : Obligations.CallPushesReturnAddress := by
  intro nnn s
  refine ⟨decode_patNNN rfl, fun hfull => ?_, fun hroom => ?_⟩
  · refine ⟨_, exec_call_of_full hfull nnn, ?_⟩
    rw [patNNN_eq_wordNNN]
    rfl
  · have htarget : (zextAddr nnn).toNat = nnn.toNat := BitVec.toNat_setWidth_of_le (by decide)
    exact ⟨_, exec_call_of_room hroom nnn, State.push_sp_val hroom (s.pc + 2#16),
      State.push_stack_getElem?_same hroom (s.pc + 2#16),
      fun _ _ hk => s.push_stack_getElem?_other (s.pc + 2#16) hk, htarget,
      ((UnchangedBut.refl _ s).push rfl (s.pc + 2#16)).completed rfl⟩

/-- Settles O35: the return reads SP and the stack alone, and both are as the call's push left them. -/
theorem returnUndoesCall : Obligations.ReturnUndoesCall := by
  intro nnn s t u hroom hcall husp hustack
  rw [exec_call_of_room hroom] at hcall
  cases hcall
  have hsp : u.sp.val = s.sp.val + 1 := by rw [husp, State.start_sp, State.setPc_sp, State.push_sp_val hroom]
  refine ⟨_, exec_ret_of_nonempty (by omega), ?_, Fin.ext ?_⟩
  · calc u.top = (s.push (s.pc + 2#16)).top := State.top_congr husp hustack
      _ = s.pc + 2#16 := State.top_push hroom _
  · calc u.pop.sp.val = u.sp.val - 1 := u.pop_sp_val
      _ = s.sp.val := by rw [hsp, Nat.add_sub_cancel]

/-- Settles O33: the PC-advance law of the two jumps, whose targets stay below 2^16. -/
theorem jumps : Obligations.Jumps := by
  intro nnn s
  refine ⟨⟨decode_patNNN rfl, ?_⟩, decode_patNNN rfl, ?_⟩
  · obtain ⟨t, hexec, hpc, hrest⟩ := exec_completes (i := .jp nnn) rfl s
    have htarget : t.pc.toNat = nnn.toNat := by
      rw [hpc, pcNext, BitVec.toNat_ofNat]
      omega
    exact ⟨t, hexec, htarget, rfl, hrest⟩
  · obtain ⟨t, hexec, hpc, hrest⟩ := exec_completes (i := .jpV0 nnn) rfl s
    have htarget : t.pc.toNat = nnn.toNat + (s.reg 0).toNat := by
      rw [hpc, pcNext, BitVec.toNat_ofNat]
      omega
    exact ⟨t, hexec, htarget, rfl, hrest⟩

/-- Settles O36: no skip has a fault of its own, so each completes with the PC that the PC-advance law gives it. -/
theorem conditionalSkips : Obligations.ConditionalSkips :=
  fun _ _ _ _ s =>
    ⟨⟨decode_patXKK rfl, exec_completes rfl s⟩, ⟨decode_patXKK rfl, exec_completes rfl s⟩,
      ⟨decode_patXYN rfl, exec_completes rfl s⟩, decode_patXYN rfl, exec_completes rfl s⟩

end Sys2Proof.Spec
end

section
/-! PROOFS. The index-register and memory family (R220 to R225): where a block passes its address test and where its
lowest offending address lies, and what each instruction leaves when it completes. -/

namespace Sys2Proof.Machine

open Sys2Proof.Spec

/-! ### The index register -/

/-- An instruction that ends with a write of I alone. -/
theorem advance_setIndex (w : Word) (s : State) :
    ∃ t, advance (s.setIndex w) = .next t ∧ t.index = w ∧ Completed { index := true } (s.pc + 2#16) s t :=
  ⟨_, rfl, rfl, ((UnchangedBut.refl _ s).setIndex rfl w).completed rfl⟩

theorem zextAddr_toNat (nnn : Addr12) : (zextAddr nnn).toNat = nnn.toNat :=
  BitVec.toNat_setWidth_of_le (by decide)

theorem zextByte_toNat (b : Byte) : (zextByte b).toNat = b.toNat :=
  BitVec.toNat_setWidth_of_le (by decide)

/-- The number of the last glyph byte that a register can name fits in I, so the product does not wrap (R222). -/
theorem glyphAddr_toNat (b : Byte) : (glyphAddr b).toNat = b.toNat * 5 := by
  have := b.isLt
  rw [glyphAddr, BitVec.toNat_ofNat]
  omega

/-- I does not wrap past a block that lies in memory (R224, R225). -/
theorem State.indexPast_toNat {s : State} {x : Reg} (hx : s.index.toNat + x.val ≤ 0xFFF) :
    (s.indexPast x).toNat = s.index.toNat + x.val + 1 := by
  rw [State.indexPast, blockLen, BitVec.toNat_add, BitVec.toNat_ofNat]
  omega

/-! ### The address tests of a block (R51, R52, R56) -/

/-- A block that ends in memory passes the read test: the font may be read. -/
theorem firstOffence_read_inside {a n : Nat} (hn : a + n ≤ 0x1000) : firstOffence readOffence a n = none := by
  rw [firstOffence_eq_none]
  intro k hk
  rw [readOffence_eq_none]
  omega

/-- A block at I that begins in the font faults at I itself. -/
theorem firstOffence_write_index_font {s : State} (h : s.index.toNat < 0x050) (n : Nat) :
    firstOffence writeOffence s.dataAddr (n + 1) = some ⟨.protectedWrite, s.index⟩ := by
  rw [State.dataAddr, firstOffence_write_font h n.succ_pos, BitVec.ofNat_toNat, BitVec.setWidth_eq]

/-- The offending address that the tests report, as the statements name it (R30). -/
theorem firstOutside_eq_ofNat (s : State) :
    firstOutside s = BitVec.ofNat 16 (if 0xFFF < s.dataAddr then s.dataAddr else 0x1000) := by
  rw [apply_ite (BitVec.ofNat 16), State.dataAddr, BitVec.ofNat_toNat, BitVec.setWidth_eq, firstOutside]

/-- A block of n + 1 bytes has its last one at I + n. -/
theorem firstOffence_write_index_outside {s : State} {n : Nat} (ha : 0x050 ≤ s.index.toNat)
    (h : 0xFFF < s.index.toNat + n) :
    firstOffence writeOffence s.dataAddr (n + 1) = some ⟨.dataOutOfBounds, firstOutside s⟩ := by
  rw [firstOutside_eq_ofNat]
  exact firstOffence_write_outside ha h n.succ_pos

theorem firstOffence_read_index_outside {s : State} {n : Nat} (h : 0xFFF < s.index.toNat + n) :
    firstOffence readOffence s.dataAddr (n + 1) = some ⟨.dataOutOfBounds, firstOutside s⟩ := by
  rw [firstOutside_eq_ofNat]
  exact firstOffence_read_outside h n.succ_pos

/-- An instruction with an offence takes the fault, whatever its effect would have been (R115, R324). -/
theorem guarded_faultTaken {o : Option Raise} {code : FaultCode} {addr w : Word} (ho : o = some ⟨code, addr⟩)
    {i : Instr} (hw : w = encode i) (s : State) (effect : Result) :
    ∃ t, guarded o i s effect = .next t ∧ FaultTaken code addr w s t := by
  subst ho hw
  exact ⟨_, guarded_some _ _ _ _, rfl⟩

/-! ### What the instructions do inside memory (R223 to R225) -/

section Inside

variable {s : State} {x : Reg}

theorem exec_ldB_of_inside (ha : 0x050 ≤ s.index.toNat) (hx : s.index.toNat + 2 ≤ 0xFFF) :
    exec (.ldB x) s =
      .next ((s.setMem (s.mem.writeBlock s.dataAddr (bcdDigits (s.reg x)))).setPc (s.pc + 2#16)).start := by
  have hinside : firstOffence writeOffence s.dataAddr 3 = none := firstOffence_write_inside ha (Nat.succ_le_succ hx)
  rw [exec, execLdB, hinside, guarded_none]
  rfl

theorem exec_ldMemVx_of_inside (ha : 0x050 ≤ s.index.toNat) (hx : s.index.toNat + x.val ≤ 0xFFF) :
    exec (.ldMemVx x) s =
      .next (((s.setMem (s.mem.writeBlock s.dataAddr (s.regBlock x))).setIndex (s.indexPast x)).setPc
        (s.pc + 2#16)).start := by
  have hinside : firstOffence writeOffence s.dataAddr (blockLen x) = none :=
    firstOffence_write_inside ha (Nat.succ_le_succ hx)
  rw [exec, execLdMemVx, hinside, guarded_none]
  rfl

theorem exec_ldVxMem_of_inside (hx : s.index.toNat + x.val ≤ 0xFFF) :
    exec (.ldVxMem x) s =
      .next (((s.loadRegs (s.mem.readBlock s.dataAddr (blockLen x))).setIndex (s.indexPast x)).setPc
        (s.pc + 2#16)).start := by
  have hinside : firstOffence readOffence s.dataAddr (blockLen x) = none :=
    firstOffence_read_inside (Nat.succ_le_succ hx)
  rw [exec, execLdVxMem, hinside, guarded_none]
  rfl

end Inside

/-- A register after a block of memory is loaded into V[0], V[1], ... (R225). -/
theorem State.reg_loadRegs_readBlock (s : State) (m : Memory) (a n : Nat) (k : Reg) :
    (s.loadRegs (m.readBlock a n)).reg k = if k.val < n then m.read (a + k.val) else s.reg k := by
  rw [State.reg_loadRegs]
  by_cases hk : k.val < n
  · rw [dif_pos (by rwa [Memory.length_readBlock]), if_pos hk, Memory.getElem_readBlock]
  · rw [dif_neg (by rwa [Memory.length_readBlock]), if_neg hk]

end Sys2Proof.Machine

namespace Sys2Proof.Spec

open Sys2Proof.Machine

theorem byteAfterBlock_stored (s : State) {x k : Reg} (hk : k.val ≤ x.val) :
    byteAfterBlock s x (s.index.toNat + k.val) = s.reg k := by
  rw [byteAfterBlock, if_pos ⟨Nat.le_add_right _ _, Nat.add_le_add_left hk _⟩, Nat.add_sub_cancel_left,
    Fin.ofNat_val_eq_self]

/-- The three digits of a byte are bytes, so none of them wraps (R223). -/
theorem byteAfterDigits_stored (s : State) (x : Reg) :
    (byteAfterDigits s x s.index.toNat).toNat = (s.reg x).toNat / 100 ∧
    (byteAfterDigits s x (s.index.toNat + 1)).toNat = (s.reg x).toNat / 10 % 10 ∧
    (byteAfterDigits s x (s.index.toNat + 2)).toNat = (s.reg x).toNat % 10 := by
  have := (s.reg x).isLt
  refine ⟨?_, ?_, ?_⟩
  · rw [byteAfterDigits, if_pos rfl, BitVec.toNat_ofNat]
    omega
  · rw [byteAfterDigits, if_neg (by omega), if_pos rfl, BitVec.toNat_ofNat]
    omega
  · rw [byteAfterDigits, if_neg (by omega), if_neg (by omega), if_pos rfl, BitVec.toNat_ofNat]
    omega

/-- Settles O38: the write test of the three addresses decides between the digits and the fault. -/
theorem storeDecimalDigits : Obligations.StoreDecimalDigits := by
  intro x s
  have hword := patXKK_eq_wordXKK 0xF x 0x33#8
  refine ⟨decode_patXKK rfl, fun ha hx => ?_, fun hfont => ?_, fun hout => ?_⟩
  · obtain ⟨hhundreds, htens, hunits⟩ := byteAfterDigits_stored s x
    simp only [← read_writeBlock_bcdDigits] at hhundreds htens hunits
    exact ⟨_, exec_ldB_of_inside ha hx, hhundreds, htens, hunits,
      ((UnchangedBut.refl _ s).writeBlock rfl).completed rfl⟩
  · exact guarded_faultTaken (firstOffence_write_index_font hfont 2) hword s _
  · exact guarded_faultTaken (firstOffence_write_index_outside (by omega) hout) hword s _

/-- Settles O39: the write test of the block's addresses decides between the store and the fault. -/
theorem storeRegisterBlock : Obligations.StoreRegisterBlock := by
  intro x s
  have hword := patXKK_eq_wordXKK 0xF x 0x55#8
  refine ⟨decode_patXKK rfl, fun ha hx => ?_, fun hfont => ?_, fun hout => ?_⟩
  · refine ⟨_, exec_ldMemVx_of_inside ha hx, fun k hk => ?_, State.indexPast_toNat hx,
      (((UnchangedBut.refl _ s).writeBlock (s.length_regBlock x)).setIndex rfl _).completed rfl⟩
    exact (read_writeBlock_regBlock s x _).trans (byteAfterBlock_stored s hk)
  · exact guarded_faultTaken (firstOffence_write_index_font hfont x.val) hword s _
  · exact guarded_faultTaken (firstOffence_write_index_outside (by omega) hout) hword s _

/-- Settles O40: the read test of the block's addresses decides between the load and the fault. -/
theorem loadRegisterBlock : Obligations.LoadRegisterBlock := by
  intro x s
  refine ⟨decode_patXKK rfl, fun hx => ?_, fun hout => ?_⟩
  · have hreg := s.reg_loadRegs_readBlock s.mem s.dataAddr (blockLen x)
    exact ⟨_, exec_ldVxMem_of_inside hx, fun k hk => (hreg k).trans (if_pos (Nat.lt_succ_of_le hk)),
      fun k hk => (hreg k).trans (if_neg (Nat.not_lt.2 hk)), State.indexPast_toNat hx,
      (((UnchangedBut.refl _ s).loadRegs List.mem_finRange _).setIndex rfl _).completed rfl⟩
  · exact guarded_faultTaken (firstOffence_read_index_outside hout) (patXKK_eq_wordXKK 0xF x 0x65#8) s _

/-- Settles O41, from O39 and O40: the load reads at I + k what the store put there, the register k. -/
theorem blockRoundTrip : Obligations.BlockRoundTrip := by
  intro x s t u ha hx hstore hmem hindex
  obtain ⟨-, hinside, -⟩ := storeRegisterBlock x s
  obtain ⟨t', hstore', hstored, -⟩ := hinside ha hx
  obtain rfl : t' = t := Host.Outcome.next.inj (hstore'.symm.trans hstore)
  obtain ⟨-, hload, -⟩ := loadRegisterBlock x u
  obtain ⟨r, hexec, hloaded, -⟩ := hload (by rwa [hindex])
  refine ⟨r, hexec, fun k hk => ?_⟩
  rw [hloaded k hk, hmem, hindex, hstored k hk]

/-- Settles O37, from the write of I. -/
theorem indexRegisterOperations : Obligations.IndexRegisterOperations := by
  intro nnn x s
  refine ⟨⟨decode_patNNN rfl, ?_⟩, ⟨decode_patXKK rfl, ?_⟩, decode_patXKK rfl, ?_⟩
  · obtain ⟨t, hexec, hindex, hdone⟩ := advance_setIndex (zextAddr nnn) s
    exact ⟨t, hexec, by rw [hindex, zextAddr_toNat], hdone⟩
  · obtain ⟨t, hexec, hindex, hdone⟩ := advance_setIndex (s.index + zextByte (s.reg x)) s
    exact ⟨t, hexec, by rw [hindex, BitVec.toNat_add, zextByte_toNat], hdone⟩
  · obtain ⟨t, hexec, hindex, hdone⟩ := advance_setIndex (glyphAddr (s.reg x)) s
    exact ⟨t, hexec, by rw [hindex, glyphAddr_toNat], hdone⟩

end Sys2Proof.Spec
end

section
/-! PROOFS. The framebuffer (R260 to R265): the pixels and the flag that a drawn sprite leaves, the packed form, and the
events that write FB_DIRTY. -/

namespace Sys2Proof.Machine

open Sys2Proof.Spec

/-! ### The packed form (R261) -/

/-- Byte b of the packed form holds eight columns of row b div 8, the leftmost in its bit 7. -/
theorem getLsbD_packedByte (fb : Framebuffer) {b : Byte} {j : Nat} {c : Fin 64} {r : Fin 32} (hj : j < 8)
    (hc : c.val = 8 * (b.toNat % 8) + j) (hr : r.val = b.toNat / 8) :
    (packedByte fb b).getLsbD (7 - j) = pixel fb c r := by
  have hbit : 56 - 8 * (b.toNat % 8) + (7 - j) = 63 - c.val := by omega
  have hbyte : 7 - j < 8 := by omega
  simp [packedByte, pixel, BitVec.getMsbD_eq_getLsbD, hbit, hbyte, hr]

/-! ### The sprite of Dxyn (R263) -/

section Sprite

variable {s : State} {x y : Reg} {n : Nibble} {c : Fin 64} {q : Fin 32}

/-- The model's wrap of each pixel on its own is the one that the statement is about. -/
theorem rowsHit_iff_spriteOn :
    rowsHit (originCol (s.reg x)) (originRow (s.reg y)) c q 0 (s.mem.readBlock s.dataAddr n.toNat) = true ↔
      SpriteOn s x y n c q := by
  have hcol : ∀ j, c = wrapCol (originCol (s.reg x)) j ↔ c.val = ((s.reg x).toNat % 64 + j) % 64 := fun j => by
    rw [Fin.ext_iff]
    rfl
  have hrow : ∀ k, q = wrapRow (originRow (s.reg y)) k ↔ q.val = ((s.reg y).toNat % 32 + k) % 32 := fun k => by
    rw [Fin.ext_iff]
    rfl
  simp only [rowsHit_iff, Memory.getElem_readBlock, Memory.length_readBlock, Nat.zero_add, hcol, hrow, exists_prop]
  constructor
  · rintro ⟨k, hk, hq, j, hj, hbit, hc⟩
    exact ⟨k, hk, j, hj, hbit, hc, hq⟩
  · rintro ⟨k, hk, j, hj, hbit, hc, hq⟩
    exact ⟨k, hk, hq, j, hj, hbit, hc⟩

/-- A sprite has at most 15 rows, so no two of its bits fall on one pixel. -/
theorem length_spriteRows_le (s : State) (n : Nibble) : (s.mem.readBlock s.dataAddr n.toNat).length ≤ 32 := by
  have := n.isLt
  rw [Memory.length_readBlock]
  omega

/-- Each pixel is XORed with the bit of the sprite that falls on it. -/
theorem pixel_drawnCanvas {bit : Bool} (hbit : SpriteOn s x y n c q ↔ bit = true) :
    pixel (s.drawnCanvas x y n).1 c q = (pixel s.fb c q ^^ bit) := by
  obtain ⟨hpixels, -⟩ :=
    drawSprite_law s.fb (originCol (s.reg x)) (originRow (s.reg y)) _ (length_spriteRows_le s n)
  rw [State.drawnCanvas, hpixels, Bool.eq_iff_iff.2 (rowsHit_iff_spriteOn.trans hbit)]

/-- A collision is a set bit of the sprite on a set pixel. -/
theorem drawnCanvas_collides_iff :
    (s.drawnCanvas x y n).2 = true ↔ ∃ c q, SpriteOn s x y n c q ∧ pixel s.fb c q = true := by
  obtain ⟨-, hcollide⟩ :=
    drawSprite_law s.fb (originCol (s.reg x)) (originRow (s.reg y)) _ (length_spriteRows_le s n)
  simp only [rowsHit_iff_spriteOn] at hcollide
  exact hcollide

/-- The pixels of a sprite are a matter of its bytes and its origin alone. -/
theorem spriteOn_congr {t : State} (hmem : ∀ a, t.mem.read a = s.mem.read a) (hindex : t.index = s.index)
    (hx : (t.reg x).toNat % 64 = (s.reg x).toNat % 64) (hy : (t.reg y).toNat % 32 = (s.reg y).toNat % 32) :
    SpriteOn t x y n c q ↔ SpriteOn s x y n c q := by
  simp only [SpriteOn, hmem, hindex, hx, hy]

/-- A one-row sprite at origin (63, 31): the bit that falls on a column is the column's distance past 63. -/
theorem spriteOn_corner_iff (hx : (s.reg x).toNat % 64 = 63) (hy : (s.reg y).toNat % 32 = 31) :
    SpriteOn s x y 1#4 c q ↔ q = 31 ∧ (c.val + 1) % 64 < 8 ∧
      (s.mem.read s.index.toNat).getLsbD (7 - (c.val + 1) % 64) = true := by
  rw [SpriteOn, hx, hy, Fin.ext_iff]
  constructor
  · rintro ⟨r, hr, j, hj, hbit, hc, hq⟩
    obtain rfl : r = 0 := Nat.lt_one_iff.1 hr
    obtain rfl : j = (c.val + 1) % 64 := by omega
    exact ⟨hq, hj, hbit⟩
  · rintro ⟨hq, hj, hbit⟩
    exact ⟨0, Nat.one_pos, (c.val + 1) % 64, hj, hbit, by omega, hq⟩

/-- A sprite inside memory passes the read test, so it is drawn. -/
theorem exec_drw_of_inside (h : SpriteInMemory s n) :
    exec (.drw x y n) s =
      .next (((s.setReg vf (flagOf (s.drawnCanvas x y n).2)).setFb (s.drawnCanvas x y n).1).setPc
        (s.pc + 2#16)).start := by
  have hinside : firstOffence readOffence s.dataAddr n.toNat = none := by
    rcases h with rfl | hn
    · rfl
    · exact firstOffence_read_inside hn
  rw [exec, execDrw, hinside, guarded_none]
  rfl

/-- A sprite that leaves memory offends at its lowest address above 0xFFF. -/
theorem firstOffence_of_not_spriteInMemory (h : ¬SpriteInMemory s n) :
    firstOffence readOffence s.dataAddr n.toNat = some ⟨.dataOutOfBounds, firstOutside s⟩ := by
  obtain ⟨hzero, hout⟩ := not_or.1 h
  obtain ⟨m, hm⟩ := Nat.exists_eq_succ_of_ne_zero fun h0 => hzero (BitVec.eq_of_toNat_eq h0)
  rw [hm]
  exact firstOffence_read_index_outside (by omega)

end Sprite

/-! ### Writers of FB_DIRTY (R264) -/

/-- A step that changes FB_DIRTY runs 00E0 or Dxyn. -/
theorem step_changes_fbDirty {s t : State} (h : step s = .next t) (hne : t.fbDirty ≠ s.fbDirty) :
    decode (fetchedWord s) = .ok .cls ∨ ∃ x y n, decode (fetchedWord s) = .ok (.drw x y n) := by
  rcases step_outcomes h with ⟨-, rfl⟩ | ⟨r, w, -, rfl⟩ | ⟨i, hfront, -, -, -, hframe⟩
  · exact absurd rfl hne
  · exact absurd rfl hne
  · obtain ⟨-, -, hd⟩ := front_ok.1 hfront
    rw [wordAt_pc] at hd
    by_contra hnot
    obtain ⟨hcls, hdrw⟩ := not_or.1 hnot
    have hkeeps : (writes s i).display = false :=
      writes_display s (fun hi => hcls (hi ▸ hd)) fun x y n hi => hdrw ⟨x, y, n, hi ▸ hd⟩
    obtain ⟨-, -, -, -, -, hdisplay, -⟩ := hframe
    obtain ⟨-, hsame⟩ := hdisplay hkeeps
    exact hne hsame

theorem State.unlessFaulted_fbDirty {s t : State} (h : t.fbDirty = s.fbDirty) :
    (s.unlessFaulted t).fbDirty = s.fbDirty := by
  rcases s.unlessFaulted_cases t with hs | ht
  · rw [hs]
  · rw [ht, h]

theorem State.load_fbDirty (s : State) (addr : Addr12) (data : Byte) : (s.load addr data).fbDirty = s.fbDirty := by
  unfold State.load
  split
  · rfl
  · split <;> rfl

/-- The host's events but fb_ack and reset leave FB_DIRTY. -/
theorem onEvent_fbDirty {s t : State} {e : Event} (hstep : e ≠ .step) (hack : e ≠ .fbAck) (hreset : e ≠ .reset)
    (h : s.onEvent e = .next t) : t.fbDirty = s.fbDirty := by
  cases e with
  | step => exact absurd rfl hstep
  | fbAck => exact absurd rfl hack
  | reset => exact absurd rfl hreset
  | tick | keyWrite =>
    cases h
    exact State.unlessFaulted_fbDirty rfl
  | load addr data =>
    cases h
    exact State.unlessFaulted_fbDirty (s.load_fbDirty addr data)

end Sys2Proof.Machine

namespace Sys2Proof.Spec

open Sys2Proof.Machine

/-- Settles O44: the read test of the sprite's addresses decides between the drawn canvas and the fault. -/
theorem drawSprite : Obligations.DrawSprite := by
  intro x y n s
  refine ⟨decode_patXYN rfl, fun hinside => ?_, fun hout => ?_⟩
  · have hflag := s.reg_setReg_same vf (flagOf (s.drawnCanvas x y n).2)
    refine ⟨_, exec_drw_of_inside hinside, fun c q hon => ?_, fun c q hoff => ?_, fun hcollide => ?_,
      fun hclear => ?_, rfl, (((UnchangedBut.refl _ s).setReg List.mem_cons_self _).setFb rfl _).completed rfl⟩
    · exact (pixel_drawnCanvas (iff_of_true hon rfl)).trans (Bool.xor_true _)
    · exact (pixel_drawnCanvas (iff_of_false hoff Bool.false_ne_true)).trans (Bool.xor_false _)
    · exact hflag.trans (congrArg flagOf (drawnCanvas_collides_iff.2 hcollide))
    · exact hflag.trans (congrArg flagOf (Bool.eq_false_iff.2 fun h => hclear (drawnCanvas_collides_iff.1 h)))
  · exact guarded_faultTaken (firstOffence_of_not_spriteInMemory hout) (patXYN_eq_wordXYN 0xD x y n) s _

/-- The first draw leaves the bytes and the origin of its sprite, so the second inverts the same pixels back and
collides with those that the first turned on (R265). -/
theorem secondDraw_restores {x y : Reg} {n : Nibble} {s t : State} (hinside : SpriteInMemory s n)
    (hfirst : exec (.drw x y n) s = .next t) (hx : (t.reg x).toNat % 64 = (s.reg x).toNat % 64)
    (hy : (t.reg y).toNat % 32 = (s.reg y).toNat % 32) :
    ∃ u, exec (.drw x y n) t = .next u ∧ (∀ c q, pixel u.fb c q = pixel s.fb c q) ∧
      (u.reg vf = 1#8 ↔ ∃ c q, SpriteOn s x y n c q ∧ pixel s.fb c q = false) ∧
      (u.reg vf = 0#8 ↔ ¬∃ c q, SpriteOn s x y n c q ∧ pixel s.fb c q = false) := by
  obtain ⟨-, hdraw, -⟩ := drawSprite x y n s
  obtain ⟨t', hfirst', hon, hoff, -, -, -, -, -, hframe⟩ := hdraw hinside
  obtain rfl : t' = t := Host.Outcome.next.inj (hfirst'.symm.trans hfirst)
  obtain ⟨-, hindex, -, -, -, -, hmem, -⟩ := hframe
  have hindex : t'.index = s.index := hindex rfl
  have hsprite : ∀ c q, SpriteOn t' x y n c q ↔ SpriteOn s x y n c q := fun c q =>
    spriteOn_congr (fun a => hmem a (by simp)) hindex hx hy
  obtain ⟨-, hdraw, -⟩ := drawSprite x y n t'
  obtain ⟨u, hsecond, hon', hoff', hset, hclear, -⟩ := hdraw (by rwa [SpriteInMemory, hindex])
  have hcollide : (∃ c q, SpriteOn t' x y n c q ∧ pixel t'.fb c q = true) ↔
      ∃ c q, SpriteOn s x y n c q ∧ pixel s.fb c q = false := by
    refine exists_congr fun c => exists_congr fun q => ?_
    rw [hsprite]
    exact and_congr_right fun h => by rw [hon c q h, Bool.not_eq_true']
  rw [hcollide] at hset hclear
  refine ⟨u, hsecond, fun c q => ?_, ⟨fun hone => ?_, hset⟩, ⟨fun hzero hany => ?_, hclear⟩⟩
  · by_cases h : SpriteOn s x y n c q
    · rw [hon' c q ((hsprite c q).2 h), hon c q h, Bool.not_not]
    · rw [hoff' c q (mt (hsprite c q).1 h), hoff c q h]
  · by_contra hnone
    exact absurd (hone.symm.trans (hclear hnone)) (by decide)
  · exact absurd (hzero.symm.trans (hset hany)) (by decide)

/-- Settles O45: the second draw, and at the corner the one bit that falls on each column of row 31. -/
theorem drawTwiceRestores : Obligations.DrawTwiceRestores := by
  refine ⟨fun x y n s t => secondDraw_restores, fun x y s hindex hx hy => ?_⟩
  have hcorner (c : Fin 64) (q : Fin 32) := spriteOn_corner_iff (c := c) (q := q) hx hy
  refine ⟨_, exec_drw_of_inside (.inr (Nat.succ_le_succ hindex)), pixel_drawnCanvas ?_,
    fun c hc => pixel_drawnCanvas ?_, fun c q hoff => (pixel_drawnCanvas ?_).trans (Bool.xor_false _)⟩
  · rw [hcorner]
    exact ⟨fun ⟨_, _, hbit⟩ => hbit, fun hbit => ⟨rfl, by decide, hbit⟩⟩
  · have hcol : (c.val + 1) % 64 = c.val + 1 := by omega
    rw [hcorner, hcol, show 7 - (c.val + 1) = 6 - c.val by omega]
    exact ⟨fun ⟨_, _, hbit⟩ => hbit, fun hbit => ⟨rfl, by omega, hbit⟩⟩
  · rw [hcorner]
    refine iff_of_false ?_ Bool.false_ne_true
    rintro ⟨hq, hj, -⟩
    rcases hoff with hne | hbetween
    · exact hne hq
    · omega

/-- Settles O46: the pixel at (c, r) has its bit in the byte of its own eight columns. -/
theorem packedReadForm : Obligations.PackedReadForm := by
  refine fun s => ⟨fun b j c r => getLsbD_packedByte s.fb, fun c r => (getLsbD_packedByte s.fb ?_ ?_ ?_).symm⟩
  · omega
  · rw [BitVec.toNat_ofNat]
    omega
  · rw [BitVec.toNat_ofNat]
    omega

/-- Settles O47: the writers set and clear the flag by definition, and of the other events only a step can change it,
which then runs a writer. -/
theorem dirtyFlagProtocol : Obligations.DirtyFlagProtocol := by
  refine ⟨fun s t h => ?_, fun x y n s t hinside h => ?_, fun s t hf h => ?_, fun s t h => ?_,
    fun s t e hack hreset h hne => ?_⟩
  · cases h
    rfl
  · cases (exec_drw_of_inside hinside).symm.trans h
    rfl
  · cases h
    rw [State.unlessFaulted_of_not_faulted hf]
    rfl
  · cases h
    rfl
  · by_cases hstep : e = .step
    · subst hstep
      exact ⟨rfl, step_changes_fbDirty h hne⟩
    · exact absurd (onEvent_fbDirty hstep hack hreset h) hne

/-- Settles O43, from the write of the cleared framebuffer. -/
theorem clearScreen : Obligations.ClearScreen :=
  ⟨decode_encode .cls, fun s =>
    ⟨_, rfl, pixel_clearFb, rfl, ((UnchangedBut.refl _ s).setFb rfl clearFb).completed rfl⟩⟩

end Sys2Proof.Spec
end

section
/-! PROOFS. The timer and key family (R290 to R295): what a run of ticks leaves of the timers, when a key index passes
its test and which key it names, and which key is the lowest pressed. -/

namespace Sys2Proof.Machine

/-! ### Ticks (R117) and the sound output (R28) -/

/-- Outside FAULTED, k ticks count each timer down by k, floored at 0. -/
theorem onEvents_ticks {s : State} (hf : s.faulted = false) (k : Nat) :
    ∃ u, s.onEvents (List.replicate k .tick) = .next u ∧
      u.dt.toNat = s.dt.toNat - k ∧ u.st.toNat = s.st.toNat - k := by
  induction k generalizing s with
  | zero => exact ⟨s, rfl, rfl, rfl⟩
  | succ k ih =>
    have htick : s.onEvent .tick = .next s.tick := congrArg _ (State.unlessFaulted_of_not_faulted hf _)
    obtain ⟨u, hrun, hdt, hst⟩ := ih (s := s.tick) hf
    have hdt' : s.tick.dt.toNat = s.dt.toNat - 1 := toNat_countDown s.dt
    have hst' : s.tick.st.toNat = s.st.toNat - 1 := toNat_countDown s.st
    exact ⟨u, (State.onEvents_cons htick _).trans hrun, by omega, by omega⟩

theorem State.soundActive_iff (s : State) : s.soundActive = true ↔ s.st ≠ 0#8 := by
  simp [State.soundActive]

theorem State.soundActive_iff_toNat_pos (s : State) : s.soundActive = true ↔ 0 < s.st.toNat := by
  rw [State.soundActive_iff, Nat.pos_iff_ne_zero, ← BitVec.toNat_ne_iff_ne]
  rfl

/-! ### Key indices (R293, R294) -/

theorem keyOffence_of_key {b : Byte} {k : Fin 16} (h : b.toNat = k.val) : keyOffence b = none :=
  if_neg (by omega)

theorem keyOffence_of_large {b : Byte} (h : 0xF < b.toNat) :
    keyOffence b = some ⟨.keyIndexOutOfRange, BitVec.ofNat 16 b.toNat⟩ := by
  rw [keyOffence, if_pos h, zextByte, BitVec.ofNat_toNat]

theorem State.key_of_toNat_eq {b : Byte} {k : Fin 16} (h : b.toNat = k.val) (s : State) : s.key b = s.keys[k.val] := by
  simp [State.key, h, Nat.mod_eq_of_lt k.isLt]

theorem skipIf_completed (taken : Bool) (s : State) :
    ∃ t, skipIf taken s = .next t ∧ Completed {} (if taken = true then s.pc + 4#16 else s.pc + 2#16) s t :=
  ⟨_, rfl, (UnchangedBut.refl _ s).completed rfl⟩

/-- A skip that is taken where `taken` is 0. -/
theorem skipIf_not_completed (taken : Bool) (s : State) :
    ∃ t, skipIf (!taken) s = .next t ∧ Completed {} (if taken = true then s.pc + 2#16 else s.pc + 4#16) s t := by
  cases taken
  · exact skipIf_completed true s
  · exact skipIf_completed false s

section Key

variable {s : State} {x : Reg} {k : Fin 16} (h : (s.reg x).toNat = k.val)
include h

theorem exec_skp_of_key : exec (.skp x) s = skipIf s.keys[k.val] s := by
  rw [exec, execSkp, keyOffence_of_key h, guarded_none, State.key_of_toNat_eq h]

theorem exec_sknp_of_key : exec (.sknp x) s = skipIf (!s.keys[k.val]) s := by
  rw [exec, execSknp, keyOffence_of_key h, guarded_none, State.key_of_toNat_eq h]

end Key

/-! ### The lowest pressed key (R295) -/

theorem State.lowestKey_eq_none {s : State} (h : ∀ k : Fin 16, s.keys[k.val] = false) : s.lowestKey = none := by
  simp [State.lowestKey, h]

theorem State.lowestKey_eq_some {s : State} {k : Fin 16} (hk : s.keys[k.val] = true)
    (hlow : ∀ j : Fin 16, j.val < k.val → s.keys[j.val] = false) : s.lowestKey = some k := by
  rw [State.lowestKey, ← Fin.find?_eq_find?_finRange, Fin.find?_eq_some_iff]
  exact ⟨hk, hlow⟩

theorem exec_ldVxK_of_none {s : State} (h : s.lowestKey = none) (x : Reg) : exec (.ldVxK x) s = finish s.pc s := by
  rw [exec, execLdVxK, h]

theorem exec_ldVxK_of_some {s : State} {k : Fin 16} (h : s.lowestKey = some k) (x : Reg) :
    exec (.ldVxK x) s = advance (s.setReg x (BitVec.ofNat 8 k.val)) := by
  rw [exec, execLdVxK, h]

end Sys2Proof.Machine

namespace Sys2Proof.Spec

open Sys2Proof.Machine

/-- Settles O48: each instruction is one write, and the ticks count down from the value it wrote. -/
theorem timerInstructions : Obligations.TimerInstructions := by
  intro x s
  refine ⟨⟨decode_patXKK rfl, advance_setReg x s.dt s⟩, ⟨decode_patXKK rfl, ?_⟩, decode_patXKK rfl, ?_⟩
  · refine ⟨_, rfl, rfl, ((UnchangedBut.refl _ s).setDt rfl _).completed rfl, fun hf k => ?_⟩
    obtain ⟨u, hrun, hdt, -⟩ := onEvents_ticks (s := ((s.setDt (s.reg x)).setPc (s.pc + 2#16)).start) hf k
    exact ⟨u, hrun, hdt⟩
  · refine ⟨_, rfl, rfl, ((UnchangedBut.refl _ s).setSt rfl _).completed rfl, State.soundActive_iff _,
      fun hf k => ?_⟩
    obtain ⟨u, hrun, -, hst⟩ := onEvents_ticks (s := ((s.setSt (s.reg x)).setPc (s.pc + 2#16)).start) hf k
    have hcount : u.st.toNat = (s.reg x).toNat - k := hst
    exact ⟨u, hrun, hcount, by rw [State.soundActive_iff_toNat_pos, hcount, Nat.sub_pos_iff_lt]⟩

/-- Settles O49: the key index test decides between the skip and the fault, and below 0x10 the index names its key. -/
theorem keySkips : Obligations.KeySkips := by
  intro x s
  refine ⟨decode_patXKK rfl, decode_patXKK rfl, fun k hk => ?_, fun hlarge => ?_⟩
  · rw [exec_skp_of_key hk, exec_sknp_of_key hk]
    exact ⟨skipIf_completed _ s, skipIf_not_completed _ s⟩
  · exact ⟨guarded_faultTaken (keyOffence_of_large hlarge) (patXKK_eq_wordXKK 0xE x 0x9E#8) s _,
      guarded_faultTaken (keyOffence_of_large hlarge) (patXKK_eq_wordXKK 0xE x 0xA1#8) s _⟩

/-- Settles O50: the search for the lowest pressed key decides between the stall and the write of V[x]. -/
theorem keyWait : Obligations.KeyWait := by
  refine fun x s => ⟨decode_patXKK rfl, fun hnone => ?_, fun k hk hlow => ?_⟩
  · rw [exec_ldVxK_of_none (State.lowestKey_eq_none hnone)]
    exact ⟨_, rfl, (UnchangedBut.refl _ s).completed rfl⟩
  · rw [exec_ldVxK_of_some (State.lowestKey_eq_some hk hlow)]
    obtain ⟨t, hexec, hresult, hdone⟩ := advance_setReg x (BitVec.ofNat 8 k.val) s
    refine ⟨t, hexec, ?_, hdone⟩
    rw [hresult, BitVec.toNat_ofNat]
    omega

end Sys2Proof.Spec
end

section
/-! PROOFS. Which fault codes an instruction can raise, and a step (R322). -/

namespace Sys2Proof.Machine

/-- An instruction that completes leaves FAULTED as it was. -/
theorem Completed.faulted {c : Changes} {pcNext : Word} {s t : State} (h : Completed c pcNext s t) :
    t.faulted = s.faulted := by
  obtain ⟨-, -, hframe⟩ := h
  obtain ⟨-, -, -, -, -, -, -, -, -, hfaulted, -⟩ := hframe
  exact hfaulted

/-- Where an instruction sets FAULTED, the code recorded is one of its own (R322). -/
theorem exec_faultCode_mem_ownFaults {i : Instr} {s t : State} (hs : s.faulted = false) (h : exec i s = .next t)
    (ht : t.faulted = true) : t.faultCode ∈ ownFaults i := by
  rcases exec_cases h with ⟨r, hr, rfl⟩ | hdone
  · exact hr
  · simp [hdone.faulted, hs] at ht

/-- Where a step ends before its instruction, the code recorded is one of the fetch or ILLEGAL_OPCODE (R53, R86, R322). -/
theorem front_error_faultCode {s t : State} (hs : s.faulted = false) (h : s.front = .error t) :
    t.faultCode ∈ [.fetchMisaligned, .fetchOutOfBounds, .illegalOpcode] := by
  rcases front_error h with ⟨hf, -⟩ | ⟨-, r, hr, rfl⟩ | ⟨-, -, -, rfl⟩
  · simp [hs] at hf
  · exact List.mem_append_left [.illegalOpcode] (fetchOffence_code hr)
  · simp

end Sys2Proof.Machine

namespace Sys2Proof.Spec

open Sys2Proof.Machine

/-- Settles O11, from the two ways a step can end: before its instruction, or as the instruction at PC does. -/
theorem faultCausesByInstruction : Obligations.FaultCausesByInstruction := by
  refine ⟨fun i s t => exec_faultCode_mem_ownFaults, fun s t hs h ht => ?_⟩
  rcases step_cases s with ⟨u, hfront, hstep⟩ | ⟨i, hfront, hstep⟩
  · cases hstep.symm.trans h
    exact .inl (front_error_faultCode hs hfront)
  · obtain ⟨-, -, hd⟩ := front_ok.1 hfront
    exact .inr ⟨i, wordAt_pc s ▸ hd, exec_faultCode_mem_ownFaults hs (hstep.symm.trans h) ht⟩

end Sys2Proof.Spec
end

section
/-! PROOFS. The reset state (R360 to R363): what reads back from it, and what its first step does with no program loaded. -/

namespace Sys2Proof.Machine

open Sys2Proof.Spec

/-! ### Reading the reset state (R360) -/

@[simp] theorem State.reg_resetWith (f : Font) (r : Reg) : (State.resetWith f).reg r = 0x00#8 :=
  Vector.getElem_replicate r.isLt

@[simp] theorem pixel_resetWith (f : Font) (c : Fin 64) (q : Fin 32) : pixel (State.resetWith f).fb c q = false :=
  pixel_clearFb c q

theorem State.read_resetWith_above (f : Font) {a : Nat} (ha : 0x050 ≤ a) : (State.resetWith f).mem.read a = 0x00#8 := by
  rw [State.resetWith_mem, Memory.read_nil, unlisted_zero f ha]

/-! ### The first step with no program (R363) -/

theorem fetchable_resetWith (f : Font) : Fetchable (State.resetWith f) := by
  simp [Fetchable]

/-- Both bytes at PC lie above the font block, so FONT has no part in the word. -/
theorem fetchedWord_resetWith (f : Font) : fetchedWord (State.resetWith f) = 0x0000#16 := by
  have hpc : 0x050 ≤ (State.resetWith f).pc.toNat := by simp
  rw [fetchedWord, State.read_resetWith_above f hpc, State.read_resetWith_above f (Nat.le_succ_of_le hpc)]
  rfl

theorem illegalWord_zero : IllegalWord 0x0000#16 :=
  .inl (by decide)

end Sys2Proof.Machine

namespace Sys2Proof.Spec

open Sys2Proof.Machine

/-- Settles O22: the reset state lists no cell of memory, has no stack entry in use and holds no fault. -/
theorem resetMeetsInvariants : Obligations.ResetMeetsInvariants :=
  fun f => ⟨Memory.wf_reset f, pcInv_resetWith f, recordInv_resetWith f, fontInv_of_mem_nil (State.resetWith_mem f)⟩

/-- Settles O56: the event reset takes every item but the model's own `draws` from the reset state of the machine's FONT,
and that state is read back item by item. -/
theorem resetRestoresEverything : Obligations.ResetRestoresEverything := by
  intro s
  have hstack (k : Nat) (hk : k < 16) : (State.resetWith s.mem.font).stack[k]? = some 0x0000#16 := by
    rw [State.resetWith_stack, Vector.getElem?_replicate, if_pos hk]
  have hkeys (k : Fin 16) : (State.resetWith s.mem.font).keys[k.val] = false := Vector.getElem_replicate k.isLt
  exact ⟨s.resetEvent, rfl, State.reg_resetWith s.mem.font, rfl, rfl, rfl, hstack, rfl, rfl,
    pixel_resetWith s.mem.font, hkeys, rfl, fontInv_of_mem_nil s.resetEvent_mem,
    fun _ => State.read_resetWith_above s.mem.font, rfl, rfl, rfl, rfl, rfl, rfl, rfl⟩

/-- Settles O57: the word at PC after reset is 0x0000, which is illegal, so O8 gives the fault. -/
theorem firstStepWithoutProgram : Obligations.FirstStepWithoutProgram := by
  intro f
  have hill : IllegalWord (fetchedWord (State.resetWith f)) := by
    rw [fetchedWord_resetWith]
    exact illegalWord_zero
  obtain ⟨t, hstep, htaken⟩ := illegalWordFaults _ (State.resetWith_faulted f) (fetchable_resetWith f) hill
  rw [fetchedWord_resetWith] at htaken
  exact ⟨t, hstep, htaken⟩

end Sys2Proof.Spec
end
